-- ==== Sys2Proof/Word.lean ====
section
/-!
DEFINITION. The bit-vector types of the machine (spec/00_scope.md R5, R7): a byte is 8 bits, a word 16, a dword 32,
a counter 64. The names carry the width, since the spec's "word" is 16 bits.
-/

namespace Sys2Proof

/-- A byte: 8 bits (R7). -/
abbrev Byte := BitVec 8

/-- The spec's word: 16 bits (R7). -/
abbrev Word16 := BitVec 16

/-- The spec's dword: 32 bits (R7); registers, `EIP` and addresses (R5 `REG_BITS`, `ADDR_BITS`). -/
abbrev Word32 := BitVec 32

/-- A performance counter: 64 bits (R5 `COUNTER_BITS`). -/
abbrev Counter := BitVec 64

end Sys2Proof
end

