-- ==== Sys2Proof/Config.lean ====
section
/-!
DEFINITION. What is fixed for the machine, and the free values (spec/00_scope.md R5, R6).

Where the other parameters of R5 and R6 stand: the second-byte tables `T88`, `T8A`, `T8B`, `TFE`, `TFF`, `A1_ADDR_RULE`
and `PREFIX_BYTE` in Decode.lean; `ADDR_8B_RULE` is the address form that `T8B` holds; `JMP_MODULUS` and `JMP_BIAS` in
Machine/Operands.lean; `BOUNDS_CHECK` is `inStore` in Machine/Ops.lean (the hardened behaviour is the only one, U1);
`SECOND_BYTE_MISS` is `Refusal.unsupportedSecondByte`; `COUNTER_WRAP` is the 64-bit type `Counter`; `INIT_MEM` is the
memory argument of `State.construct`. `NOP_DELAY` and `SAMPLE_PERIOD` are timing only and are left out (log 17).
-/

namespace Sys2Proof

/-- The execution mode: the default operand width (R30). -/
inductive Mode where
  | bits16
  | bits32
deriving DecidableEq, Repr

/-- The operand width W of the instruction being dispatched (R114). -/
inductive Width where
  | w16
  | w32
deriving DecidableEq, Repr

namespace Config

/-- `MEM_SIZE` = 2^30 bytes (R5, R50). -/
abbrev memSize : Nat := 1073741824

/-- `INIT_MODE` for `State.reset` alone. DESIGN CHOICE, unsafe (log 4): the spec leaves it open (D10), and
`State.construct` takes any mode. -/
def initMode : Mode := .bits16

/-- `INIT_LOOKBACK` (D11): the spec's own choice, any byte but 0x66 being the same (log 6). -/
def initLookback : Byte := 0x00

/-- What a host read of a 32-bit register returns DURING a run: any value (R70, D22, U5; log 15). Free: no body, one
value per draw. -/
opaque staleWord : Nat → Word32

/-- What a host read of a counter delta returns DURING a run: any value (R70, D22, U5; log 15). Free: no body, one value
per draw. -/
opaque staleCounter : Nat → Counter

end Config

end Sys2Proof
end

