-- ==== Sys2Proof/Syntax.lean ====
section
/-!
DEFINITION. The instructions: one constructor for each of the 103 rows of spec/opcode_table.json
(spec/30_encoding.md R86 to R91), and the operand types they carry.
-/

namespace Sys2Proof

/-- The eight 32-bit general registers (R21). The first four are numbered 0 to 3 in encodings (R22); the last four have
no number, and no instruction selects them (R26). -/
inductive Gpr where
  | eax
  | ecx
  | edx
  | ebx
  | esp
  | ebp
  | esi
  | edi
deriving DecidableEq, Repr

/-- The eight 8-bit register views, in the order of their encoding numbers 0 to 7 (R23). -/
inductive Reg8 where
  | al
  | cl
  | dl
  | bl
  | ah
  | ch
  | dh
  | bh
deriving DecidableEq, Repr

/-- An absolute address operand as it stands in the instruction: 16 or 32 bits (R64). -/
inductive Addr where
  | a16 (a : Word16)
  | a32 (a : Word32)
deriving DecidableEq, Repr

/-- The immediate of opcodes 0xB8 to 0xBB, at its own width (R84, R191). -/
inductive Imm where
  | i16 (v : Word16)
  | i32 (v : Word32)
deriving DecidableEq, Repr

/-- An instruction: one constructor for each row of spec/opcode_table.json, in the table's order. -/
inductive Instr where
  /-- INC AX / INC EAX: bytes 40 (R131). -/
  | incAx
  /-- INC CX / INC ECX: bytes 41 (R132). -/
  | incCx
  /-- INC DX / INC EDX: bytes 42 (R133). -/
  | incDx
  /-- INC BX / INC EBX: bytes 43 (R134). -/
  | incBx
  /-- OPSIZE (operand-size override prefix): bytes 66 (R116). -/
  | opsize
  /-- MOV AL, AL: bytes 88 C0 (R162). -/
  | movAlAl
  /-- MOV AL, CL: bytes 88 C8 (R162). -/
  | movAlCl
  /-- MOV AL, DL: bytes 88 D0 (R162). -/
  | movAlDl
  /-- MOV AL, BL: bytes 88 D8 (R162). -/
  | movAlBl
  /-- MOV AL, AH: bytes 88 E0 (R162). -/
  | movAlAh
  /-- MOV AL, CH: bytes 88 E8 (R162). -/
  | movAlCh
  /-- MOV AL, BH: bytes 88 F8 (R162). -/
  | movAlBh
  /-- MOV CL, AL: bytes 88 C1 (R163). -/
  | movClAl
  /-- MOV CL, CL: bytes 88 C9 (R163). -/
  | movClCl
  /-- MOV CL, DL: bytes 88 D1 (R163). -/
  | movClDl
  /-- MOV CL, BL: bytes 88 D9 (R163). -/
  | movClBl
  /-- MOV CL, AH: bytes 88 E1 (R163). -/
  | movClAh
  /-- MOV CL, CH: bytes 88 E9 (R163). -/
  | movClCh
  /-- MOV CL, BH: bytes 88 F9 (R163). -/
  | movClBh
  /-- MOV DL, AL: bytes 88 C2 (R164). -/
  | movDlAl
  /-- MOV DL, CL: bytes 88 CA (R164). -/
  | movDlCl
  /-- MOV DL, DL: bytes 88 D2 (R164). -/
  | movDlDl
  /-- MOV DL, BL: bytes 88 DA (R164). -/
  | movDlBl
  /-- MOV DL, AH: bytes 88 E2 (R164). -/
  | movDlAh
  /-- MOV DL, CH: bytes 88 EA (R164). -/
  | movDlCh
  /-- MOV DL, BH: bytes 88 FA (R164). -/
  | movDlBh
  /-- MOV BL, AL: bytes 88 C3 (R165). -/
  | movBlAl
  /-- MOV BL, CL: bytes 88 CB (R165). -/
  | movBlCl
  /-- MOV BL, DL: bytes 88 D3 (R165). -/
  | movBlDl
  /-- MOV BL, BL: bytes 88 DB (R165). -/
  | movBlBl
  /-- MOV BL, AH: bytes 88 E3 (R165). -/
  | movBlAh
  /-- MOV BL, CH: bytes 88 EB (R165). -/
  | movBlCh
  /-- MOV BL, BH: bytes 88 FB (R165). -/
  | movBlBh
  /-- MOV AH, AL: bytes 88 C4 (R166). -/
  | movAhAl
  /-- MOV AH, CL: bytes 88 CC (R166). -/
  | movAhCl
  /-- MOV AH, DL: bytes 88 D4 (R166). -/
  | movAhDl
  /-- MOV AH, BL: bytes 88 DC (R166). -/
  | movAhBl
  /-- MOV AH, AH: bytes 88 E4 (R166). -/
  | movAhAh
  /-- MOV AH, CH: bytes 88 EC (R166). -/
  | movAhCh
  /-- MOV AH, BH: bytes 88 FC (R166). -/
  | movAhBh
  /-- MOV CH, AL: bytes 88 C5 (R167). -/
  | movChAl
  /-- MOV CH, CL: bytes 88 CD (R167). -/
  | movChCl
  /-- MOV CH, DL: bytes 88 D5 (R167). -/
  | movChDl
  /-- MOV CH, BL: bytes 88 DD (R167). -/
  | movChBl
  /-- MOV CH, AH: bytes 88 E5 (R167). -/
  | movChAh
  /-- MOV CH, CH: bytes 88 ED (R167). -/
  | movChCh
  /-- MOV CH, BH: bytes 88 FD (R167). -/
  | movChBh
  /-- MOV BH, AL: bytes 88 C7 (R168). -/
  | movBhAl
  /-- MOV BH, CL: bytes 88 CF (R168). -/
  | movBhCl
  /-- MOV BH, DL: bytes 88 D7 (R168). -/
  | movBhDl
  /-- MOV BH, BL: bytes 88 DF (R168). -/
  | movBhBl
  /-- MOV BH, AH: bytes 88 E7 (R168). -/
  | movBhAh
  /-- MOV BH, CH: bytes 88 EF (R168). -/
  | movBhCh
  /-- MOV BH, BH: bytes 88 FF (R168). -/
  | movBhBh
  /-- MOV CL, [addr16]: bytes 8A 0E lo hi (R170). -/
  | movClA16 (a : Word16)
  /-- MOV CL, [addr32]: bytes 8A 0D b0 b1 b2 b3 (R170). -/
  | movClA32 (a : Word32)
  /-- MOV DL, [addr16]: bytes 8A 16 lo hi (R171). -/
  | movDlA16 (a : Word16)
  /-- MOV DL, [addr32]: bytes 8A 15 b0 b1 b2 b3 (R171). -/
  | movDlA32 (a : Word32)
  /-- MOV BL, [addr16]: bytes 8A 1E lo hi (R172). -/
  | movBlA16 (a : Word16)
  /-- MOV BL, [addr32]: bytes 8A 1D b0 b1 b2 b3 (R172). -/
  | movBlA32 (a : Word32)
  /-- MOV AH, [addr16]: bytes 8A 26 lo hi (R173). -/
  | movAhA16 (a : Word16)
  /-- MOV AH, [addr32]: bytes 8A 25 b0 b1 b2 b3 (R173). -/
  | movAhA32 (a : Word32)
  /-- MOV CH, [addr16]: bytes 8A 2E lo hi (R174). -/
  | movChA16 (a : Word16)
  /-- MOV CH, [addr32]: bytes 8A 2D b0 b1 b2 b3 (R174). -/
  | movChA32 (a : Word32)
  /-- MOV DH, [addr16]: bytes 8A 36 lo hi (R175). -/
  | movDhA16 (a : Word16)
  /-- MOV DH, [addr32]: bytes 8A 35 b0 b1 b2 b3 (R175). -/
  | movDhA32 (a : Word32)
  /-- MOV BH, [addr16]: bytes 8A 3E lo hi (R176). -/
  | movBhA16 (a : Word16)
  /-- MOV BH, [addr32]: bytes 8A 3D b0 b1 b2 b3 (R176). -/
  | movBhA32 (a : Word32)
  /-- MOV CX, [addr16] / MOV ECX, [addr16]: bytes 8B 0E lo hi (R178). -/
  | movCxA16 (a : Word16)
  /-- MOV CX, [addr32] / MOV ECX, [addr32]: bytes 8B 0D b0 b1 b2 b3 (R178). -/
  | movCxA32 (a : Word32)
  /-- MOV DX, [addr16] / MOV EDX, [addr16]: bytes 8B 16 lo hi (R179). -/
  | movDxA16 (a : Word16)
  /-- MOV DX, [addr32] / MOV EDX, [addr32]: bytes 8B 15 b0 b1 b2 b3 (R179). -/
  | movDxA32 (a : Word32)
  /-- MOV BX, [addr16] / MOV EBX, [addr16]: bytes 8B 1E lo hi (R180). -/
  | movBxA16 (a : Word16)
  /-- MOV BX, [addr32] / MOV EBX, [addr32]: bytes 8B 1D b0 b1 b2 b3 (R180). -/
  | movBxA32 (a : Word32)
  /-- NOP: bytes 90 (R210). -/
  | nop
  /-- MOV AL, [addr]: bytes A0 lo hi, or b0 b1 b2 b3 (R181). -/
  | movAlAddr (a : Addr)
  /-- MOV AX, [addr16] / MOV EAX, [addr32]: bytes A1 lo hi, or b0 b1 b2 b3 (R182). -/
  | movAxAddr (a : Addr)
  /-- MOV AL, imm8: bytes B0 ib (R183). -/
  | movAlImm8 (v : Byte)
  /-- MOV CL, imm8: bytes B1 ib (R184). -/
  | movClImm8 (v : Byte)
  /-- MOV DL, imm8: bytes B2 ib (R185). -/
  | movDlImm8 (v : Byte)
  /-- MOV BL, imm8: bytes B3 ib (R186). -/
  | movBlImm8 (v : Byte)
  /-- MOV AH, imm8: bytes B4 ib (R187). -/
  | movAhImm8 (v : Byte)
  /-- MOV CH, imm8: bytes B5 ib (R188). -/
  | movChImm8 (v : Byte)
  /-- MOV DH, imm8: bytes B6 ib (R189). -/
  | movDhImm8 (v : Byte)
  /-- MOV BH, imm8: bytes B7 ib (R190). -/
  | movBhImm8 (v : Byte)
  /-- MOV AX, imm16 / MOV EAX, imm32: bytes B8 lo hi, or b0 b1 b2 b3 (R192). -/
  | movAxImm (v : Imm)
  /-- MOV CX, imm16 / MOV ECX, imm32: bytes B9 lo hi, or b0 b1 b2 b3 (R193). -/
  | movCxImm (v : Imm)
  /-- MOV DX, imm16 / MOV EDX, imm32: bytes BA lo hi, or b0 b1 b2 b3 (R194). -/
  | movDxImm (v : Imm)
  /-- MOV BX, imm16 / MOV EBX, imm32: bytes BB lo hi, or b0 b1 b2 b3 (R195). -/
  | movBxImm (v : Imm)
  /-- JMP rel8: bytes EB rel8 (R211). -/
  | jmpRel8 (v : Byte)
  /-- HLT: bytes F4 (R212). -/
  | hlt
  /-- INC BYTE [addr16]: bytes FE 06 lo hi (R136). -/
  | incByteA16 (a : Word16)
  /-- INC BYTE [addr32]: bytes FE 05 b0 b1 b2 b3 (R137). -/
  | incByteA32 (a : Word32)
  /-- INC AL: bytes FE C0 (R138). -/
  | incAl
  /-- INC CL: bytes FE C1 (R139). -/
  | incCl
  /-- INC DL: bytes FE C2 (R140). -/
  | incDl
  /-- INC BL: bytes FE C3 (R141). -/
  | incBl
  /-- INC AH: bytes FE C4 (R142). -/
  | incAh
  /-- INC CH: bytes FE C5 (R143). -/
  | incCh
  /-- INC DH: bytes FE C6 (R144). -/
  | incDh
  /-- INC BH: bytes FE C7 (R145). -/
  | incBh
  /-- INC WORD [addr16] / INC DWORD [addr16]: bytes FF 06 lo hi (R147). -/
  | incWordA16 (a : Word16)
  /-- INC WORD [addr32] / INC DWORD [addr32]: bytes FF 05 b0 b1 b2 b3 (R148). -/
  | incWordA32 (a : Word32)
deriving DecidableEq, Repr

end Sys2Proof
end

