-- ==== Sys2Proof/Machine/State.lean ====
section
/-!
DEFINITION. The state of the machine as plain data (spec/10_state.md R20), its value after construction (R43), and the
reasons a step can stop.
-/

namespace Sys2Proof.Machine

/-- Memory: the listed bytes, addresses strictly rising, none equal to what an unlisted address reads as (log 5). -/
abbrev Memory := List Host.Cell

/-- Why a run ended abnormally: the values of `Fault` but for `None` (R34, R220). -/
inductive Failure where
  /-- `InvalidOpcode(b)`: the dispatcher, on an unsupported opcode byte (R221). -/
  | invalidOpcode (b : Byte)
  /-- `MemoryFault(a)`: an addressed access outside the store, `a` its operand address (R222). -/
  | memoryFault (a : Word32)
deriving DecidableEq, Repr

/-- The observation surface (R44). -/
structure View where
  eax : Word32
  ebx : Word32
  ecx : Word32
  edx : Word32
  eip : Word32
  instrDelta : Counter
  clockDelta : Counter
deriving DecidableEq, Repr

/-- A move of one of the agents (R234, R252). The queue of moves `State.agenda` says who moves next (log 13). -/
inductive Move where
  /-- the worker: one iteration of the run loop (R110) -/
  | worker
  /-- the sampler reads `Instr` (first half of R231) -/
  | sampleInstr
  /-- the sampler reads `Clock` (second half of R231) -/
  | sampleClock
  /-- the host constructs the engine anew, with `INIT_MODE` and the initial contents of memory (R250, R252) -/
  | construct (mode : Mode) (contents : Memory)
  /-- the loader writes byte `v` at `a` (R251, R252) -/
  | load (a : Nat) (v : Byte)
  /-- the host calls `Start` (R253) -/
  | start
  /-- the host calls `Stop` (R225) -/
  | stop
  /-- the host reads the observation surface (R44, R70) -/
  | read
deriving DecidableEq, Repr

/-- The eight general registers (R21). -/
structure Regs where
  eax : Word32
  ecx : Word32
  edx : Word32
  ebx : Word32
  esp : Word32
  ebp : Word32
  esi : Word32
  edi : Word32
deriving DecidableEq, Repr

/-- The whole state (R20). `agenda`, `draws` and `view` are the model's own (logs 13 and 15); `started` is whether
`Start` has been called, from which R33 derives the run state (log 14). -/
structure State where
  regs : Regs
  eip : Word32
  mode : Mode
  lookback : Byte
  current : Byte
  halted : Bool
  started : Bool
  fault : Option Failure
  instr : Counter
  clock : Counter
  instrOld : Counter
  instrDelta : Counter
  clockOld : Counter
  clockDelta : Counter
  mem : Memory
  agenda : List Move
  draws : Nat
  view : Option View
deriving DecidableEq, Repr

/-- How a step can end in a fault of the host interface: in no way, so there is no constructor. Both failures of the
hardware are taken: they halt the engine and are recorded in `State.fault`, a next state (R220 to R222, R227; log 23).
Safe. -/
inductive Fault where
deriving DecidableEq, Repr

/-- Why a step has no successor in the model. -/
inductive Refusal where
  /-- An instruction without a meaning yet; raised by `exec`'s arm alone. Safe. -/
  | notModelled (mnemonic : String)
  /-- A second byte with no entry in its opcode's table: the spec gives it no behaviour (R93, R223, D2; log 2). Raised by
  the worker. Safe. -/
  | unsupportedSecondByte (op sb : Byte)
  /-- `Start` in a run state other than `Stopped`: the spec gives it no meaning (R254, D16; log 13). Raised by the host's
  move. Safe. -/
  | startOutsideStopped
  /-- A load in a run state other than `Stopped`: the host has no such move (R252, D28; log 13). Raised by the host's move.
  Safe. -/
  | loadOutsideStopped
  /-- A load at or beyond `MEM_SIZE`: the host has no such move (R252, U12, D28; log 13). Raised by the host's move.
  Safe. -/
  | loadOutsideStore (a : Nat)
deriving DecidableEq, Repr

/-- The outcome of a step or of a meaning. -/
abbrev Result := Host.Outcome State Fault Refusal

/-- All eight registers zero (R43). -/
def Regs.zero : Regs :=
  { eax := 0, ecx := 0, edx := 0, ebx := 0, esp := 0, ebp := 0, esi := 0, edi := 0 }

/-- The engine right after construction with `INIT_MODE` = `m` and `INIT_MEM` = `mem` (R43, R250). The values the source
does not state are the spec's decisions D11 and D12 (log 6). -/
def State.construct (m : Mode) (mem : Memory) : State :=
  { regs := Regs.zero, eip := 0, mode := m, lookback := Config.initLookback, current := 0
    halted := true, started := false, fault := none
    instr := 0, clock := 0, instrOld := 0, instrDelta := 0, clockOld := 0, clockDelta := 0
    mem := mem, agenda := [], draws := 0, view := none }

/-- The machine right after reset: construction in the mode that log 4 names, with nothing listed in memory (log 5). -/
def State.reset : State := State.construct Config.initMode []

end Sys2Proof.Machine
end

