-- ==== Sys2Proof/Machine/Flags.lean ====
section
/-!
DEFINITION. The hardware has no flags and no condition codes (spec/10_state.md R37): nothing is computed beside a result.
What stands here is the whole of its arithmetic, the increment (spec/41_inc.md R130).
-/

namespace Sys2Proof.Machine

/-- The increment of an `n`-bit value: `(x + 1) mod 2^n`; a wrap records nothing (R130, D6; log 7). -/
def inc {n : Nat} (x : BitVec n) : BitVec n := BitVec.ofNat n (x.toNat + 1)

end Sys2Proof.Machine
end

