-- ==== Sys2Proof/Machine/Memory.lean ====
section
/-!
DEFINITION. The byte store (spec/20_memory.md R50): reading and writing one byte, and the canonical form.
-/

namespace Sys2Proof.Machine

/-- What an unlisted address reads as. DESIGN CHOICE, unsafe for `State.reset` alone (log 5): `INIT_MEM` is open (D13),
and every content of the store is some canonical memory. -/
def Memory.unlisted : Byte := 0x00

/-- The byte at an address. -/
def Memory.read (m : Memory) (x : Nat) : Byte :=
  match m with
  | [] => Memory.unlisted
  | (a, b) :: rest => if x = a then b else Memory.read rest x

/-- Put byte `v` at address `x`, keeping the canonical form. -/
def Memory.write (m : Memory) (x : Nat) (v : Byte) : Memory :=
  match m with
  | [] => if v = Memory.unlisted then [] else [(x, v)]
  | (a, b) :: rest =>
    if x < a then
      if v = Memory.unlisted then (a, b) :: rest else (x, v) :: (a, b) :: rest
    else if x = a then
      if v = Memory.unlisted then rest else (x, v) :: rest
    else (a, b) :: Memory.write rest x v

/-- The canonical form: addresses strictly rising and inside the store, no entry that says what an unlisted address
reads as. -/
def Memory.wf (m : Memory) : Bool :=
  match m with
  | [] => true
  | (a, b) :: rest =>
    decide (a < Config.memSize) && decide (b ≠ Memory.unlisted) && rest.all (fun c => decide (a < c.1)) && Memory.wf rest

/-- The canonical memory that holds the given bytes, later pairs over earlier ones; a pair outside the store is no byte
of it (R50). -/
def Memory.ofCells (cells : List Host.Cell) : Memory :=
  cells.foldl (fun m c => if c.1 < Config.memSize then m.write c.1 c.2 else m) []

end Sys2Proof.Machine
end

