-- ==== Sys2Proof/WellFormed.lean ====
section
/-!
DEFINITION. Which instructions exist in which decoding context. Everything but the width of an operand is settled by the
types: the operand of 0xA0 has the address width of `Mode` (spec/42_mov.md R181), the operands of 0xA1 and 0xB8 to 0xBB
have the width W (R182, R191; D5 for 0xA1, log 3).
-/

namespace Sys2Proof

/-- The width of an address operand. -/
def Addr.width : Addr → Width
  | .a16 _ => .w16
  | .a32 _ => .w32

/-- The width of an immediate of 0xB8 to 0xBB. -/
def Imm.width : Imm → Width
  | .i16 _ => .w16
  | .i32 _ => .w32

/-- The default operand width of a mode (R30). -/
def Mode.width : Mode → Width
  | .bits16 => .w16
  | .bits32 => .w32

/-- The instruction can be what the bytes at `EIP` say when the mode is `m` and the operand width is `w`. -/
def Instr.wf (m : Mode) (w : Width) : Instr → Bool
  | .movAlAddr a => a.width == m.width
  | .movAxAddr a => a.width == w
  | .movAxImm v => v.width == w
  | .movCxImm v => v.width == w
  | .movDxImm v => v.width == w
  | .movBxImm v => v.width == w
  | .incAx | .incCx | .incDx | .incBx | .opsize | .movAlAl | .movAlCl | .movAlDl | .movAlBl | .movAlAh
  | .movAlCh | .movAlBh | .movClAl | .movClCl | .movClDl | .movClBl | .movClAh | .movClCh | .movClBh
  | .movDlAl | .movDlCl | .movDlDl | .movDlBl | .movDlAh | .movDlCh | .movDlBh | .movBlAl | .movBlCl
  | .movBlDl | .movBlBl | .movBlAh | .movBlCh | .movBlBh | .movAhAl | .movAhCl | .movAhDl | .movAhBl
  | .movAhAh | .movAhCh | .movAhBh | .movChAl | .movChCl | .movChDl | .movChBl | .movChAh | .movChCh
  | .movChBh | .movBhAl | .movBhCl | .movBhDl | .movBhBl | .movBhAh | .movBhCh | .movBhBh | .movClA16 _
  | .movClA32 _ | .movDlA16 _ | .movDlA32 _ | .movBlA16 _ | .movBlA32 _ | .movAhA16 _ | .movAhA32 _
  | .movChA16 _ | .movChA32 _ | .movDhA16 _ | .movDhA32 _ | .movBhA16 _ | .movBhA32 _ | .movCxA16 _
  | .movCxA32 _ | .movDxA16 _ | .movDxA32 _ | .movBxA16 _ | .movBxA32 _ | .nop | .movAlImm8 _ | .movClImm8 _
  | .movDlImm8 _ | .movBlImm8 _ | .movAhImm8 _ | .movChImm8 _ | .movDhImm8 _ | .movBhImm8 _ | .jmpRel8 _
  | .hlt | .incByteA16 _ | .incByteA32 _ | .incAl | .incCl | .incDl | .incBl | .incAh | .incCh | .incDh
  | .incBh | .incWordA16 _ | .incWordA32 _ => true

end Sys2Proof
end

