-- ==== Sys2Proof/Decode.lean ====
section
/-!
DEFINITION. Decoding and encoding (spec/30_encoding.md), the width rule that decoding depends on
(spec/40_sequencer_and_prefix.md R114), the byte order (spec/20_memory.md R52), and the five second-byte tables.

The second-byte values are the spec's decision D1 (log 1), the width of 0xA1's address its decision D5 (log 3). All of
them stand in definitions of this file so that a later test can mend them.
-/

namespace Sys2Proof

/-! ## Byte order (R52) -/

/-- A word from its two bytes, the first at the lower address. -/
def le16 (b0 b1 : Byte) : Word16 := b1 ++ b0

/-- A dword from its four bytes, the first at the lowest address. -/
def le32 (b0 b1 b2 b3 : Byte) : Word32 := b3 ++ b2 ++ b1 ++ b0

/-- Byte `k` of a value: bits `8k+7` down to `8k`, which stand at the value's address plus `k`. -/
def byteOf {n : Nat} (v : BitVec n) (k : Nat) : Byte := v.extractLsb' (8 * k) 8

/-! ## The width rule (R114) -/

/-- `PREFIX_BYTE`, the operand-size override (R5, R95). -/
def prefixByte : Byte := 0x66

/-- W from `Mode` and `Lookback`: 32 exactly when (Mode = Bits32) XOR (Lookback = 0x66). -/
def operandWidth (m : Mode) (lookback : Byte) : Width :=
  match xor (m == Mode.bits32) (lookback == prefixByte) with
  | true => .w32
  | false => .w16

/-- How an opcode without a second byte chooses the width of its address operand. -/
inductive AddrRule where
  /-- by `Mode` alone -/
  | byMode
  /-- by the operand width W -/
  | byOperandWidth
deriving DecidableEq, Repr

/-- Opcode 0xA0: by `Mode` alone, "no prefix interaction" (R181). -/
def a0AddrRule : AddrRule := .byMode

/-- `A1_ADDR_RULE`: the address operand of opcode 0xA1 has the width W (R182, D5; log 3). -/
def a1AddrRule : AddrRule := .byOperandWidth

/-- The address width a rule gives in mode `m` with operand width `w`. -/
def AddrRule.width (r : AddrRule) (m : Mode) (w : Width) : Width :=
  match r with
  | .byMode => m.width
  | .byOperandWidth => w

/-! ## The shapes of an instruction (R80, R81) -/

/-- What follows the opcode byte (and the second byte, where there is one): at most one operand field of 1, 2 or 4
bytes, and the instruction that the field completes. -/
inductive Tail where
  | none (i : Instr)
  | byte (k : Byte → Instr)
  | word (k : Word16 → Instr)
  | dword (k : Word32 → Instr)

/-- What an opcode byte selects: an instruction without a second byte, or a second-byte table. -/
inductive Entry where
  | single (t : Tail)
  | second (table : Byte → Option Tail)

/-- An address field of the given width. -/
def addrTail (w : Width) (k : Addr → Instr) : Tail :=
  match w with
  | .w16 => .word fun a => k (.a16 a)
  | .w32 => .dword fun a => k (.a32 a)

/-- An immediate field of the given width (R191). -/
def immTail (w : Width) (k : Imm → Instr) : Tail :=
  match w with
  | .w16 => .word fun v => k (.i16 v)
  | .w32 => .dword fun v => k (.i32 v)

/-! ## The second byte (R82; decision D1, log 1) -/

/-- `mod`, bits 7 to 6. -/
def sbMod (sb : Byte) : BitVec 2 := sb.extractLsb' 6 2

/-- `reg`, bits 5 to 3. -/
def sbReg (sb : Byte) : BitVec 3 := sb.extractLsb' 3 3

/-- `rm`, bits 2 to 0. -/
def sbRm (sb : Byte) : BitVec 3 := sb.extractLsb' 0 3

/-- The 8-bit register of an encoding number (R23, R83). -/
def reg8Of (n : BitVec 3) : Reg8 :=
  match n.toNat with
  | 0 => .al
  | 1 => .cl
  | 2 => .dl
  | 3 => .bl
  | 4 => .ah
  | 5 => .ch
  | 6 => .dh
  | _ => .bh

/-- The two absolute address forms: `mod` = 00 with `rm` = 110 (16-bit address) or 101 (32-bit address). -/
def absoluteForm (sb : Byte) (k16 : Word16 → Instr) (k32 : Word32 → Instr) : Option Tail :=
  if sbMod sb = 0 then
    if sbRm sb = 6 then some (.word k16)
    else if sbRm sb = 5 then some (.dword k32)
    else none
  else none

/-- MOV of one 8-bit register to another, destination first: the 49 pairs of R87. DH is neither source nor destination
(D3). -/
def movReg8Pair (d s : Reg8) : Option Instr :=
  match d, s with
  | .al, .al => some .movAlAl
  | .al, .cl => some .movAlCl
  | .al, .dl => some .movAlDl
  | .al, .bl => some .movAlBl
  | .al, .ah => some .movAlAh
  | .al, .ch => some .movAlCh
  | .al, .bh => some .movAlBh
  | .cl, .al => some .movClAl
  | .cl, .cl => some .movClCl
  | .cl, .dl => some .movClDl
  | .cl, .bl => some .movClBl
  | .cl, .ah => some .movClAh
  | .cl, .ch => some .movClCh
  | .cl, .bh => some .movClBh
  | .dl, .al => some .movDlAl
  | .dl, .cl => some .movDlCl
  | .dl, .dl => some .movDlDl
  | .dl, .bl => some .movDlBl
  | .dl, .ah => some .movDlAh
  | .dl, .ch => some .movDlCh
  | .dl, .bh => some .movDlBh
  | .bl, .al => some .movBlAl
  | .bl, .cl => some .movBlCl
  | .bl, .dl => some .movBlDl
  | .bl, .bl => some .movBlBl
  | .bl, .ah => some .movBlAh
  | .bl, .ch => some .movBlCh
  | .bl, .bh => some .movBlBh
  | .ah, .al => some .movAhAl
  | .ah, .cl => some .movAhCl
  | .ah, .dl => some .movAhDl
  | .ah, .bl => some .movAhBl
  | .ah, .ah => some .movAhAh
  | .ah, .ch => some .movAhCh
  | .ah, .bh => some .movAhBh
  | .ch, .al => some .movChAl
  | .ch, .cl => some .movChCl
  | .ch, .dl => some .movChDl
  | .ch, .bl => some .movChBl
  | .ch, .ah => some .movChAh
  | .ch, .ch => some .movChCh
  | .ch, .bh => some .movChBh
  | .bh, .al => some .movBhAl
  | .bh, .cl => some .movBhCl
  | .bh, .dl => some .movBhDl
  | .bh, .bl => some .movBhBl
  | .bh, .ah => some .movBhAh
  | .bh, .ch => some .movBhCh
  | .bh, .bh => some .movBhBh
  | .dh, _ => none
  | .al, .dh | .cl, .dh | .dl, .dh | .bl, .dh | .ah, .dh | .ch, .dh | .bh, .dh => none

/-- Table `T88` (R87): `mod` = 11, `reg` the source, `rm` the destination. -/
def T88 (sb : Byte) : Option Tail :=
  if sbMod sb = 3 then (movReg8Pair (reg8Of (sbRm sb)) (reg8Of (sbReg sb))).map Tail.none else none

/-- Table `T8A` (R88): `reg` the destination, AL absent. -/
def T8A (sb : Byte) : Option Tail :=
  match reg8Of (sbReg sb) with
  | .al => none
  | .cl => absoluteForm sb .movClA16 .movClA32
  | .dl => absoluteForm sb .movDlA16 .movDlA32
  | .bl => absoluteForm sb .movBlA16 .movBlA32
  | .ah => absoluteForm sb .movAhA16 .movAhA32
  | .ch => absoluteForm sb .movChA16 .movChA32
  | .dh => absoluteForm sb .movDhA16 .movDhA32
  | .bh => absoluteForm sb .movBhA16 .movBhA32

/-- Table `T8B` (R89): `reg` the destination, 1 to 3 (CX/ECX, DX/EDX, BX/EBX); the address width is fixed by this byte
(`ADDR_8B_RULE`, D4). -/
def T8B (sb : Byte) : Option Tail :=
  match (sbReg sb).toNat with
  | 1 => absoluteForm sb .movCxA16 .movCxA32
  | 2 => absoluteForm sb .movDxA16 .movDxA32
  | 3 => absoluteForm sb .movBxA16 .movBxA32
  | _ => none

/-- INC of an 8-bit register (R138 to R145). -/
def incReg8Instr (r : Reg8) : Instr :=
  match r with
  | .al => .incAl
  | .cl => .incCl
  | .dl => .incDl
  | .bl => .incBl
  | .ah => .incAh
  | .ch => .incCh
  | .dh => .incDh
  | .bh => .incBh

/-- Table `TFE` (R90): `reg` = 000 in every form. -/
def TFE (sb : Byte) : Option Tail :=
  if sbReg sb = 0 then
    if sbMod sb = 3 then some (.none (incReg8Instr (reg8Of (sbRm sb))))
    else absoluteForm sb .incByteA16 .incByteA32
  else none

/-- Table `TFF` (R91): `reg` = 000, memory forms only. -/
def TFF (sb : Byte) : Option Tail :=
  if sbReg sb = 0 then absoluteForm sb .incWordA16 .incWordA32 else none

/-! ## The opcode map (R86) -/

/-- The 27 supported opcode bytes, in mode `m` with operand width `w`; every other byte is invalid. -/
def opcodeRows (m : Mode) (w : Width) : List (Byte × Entry) :=
  [(0x40, .single (.none .incAx)), (0x41, .single (.none .incCx)),
   (0x42, .single (.none .incDx)), (0x43, .single (.none .incBx)),
   (0x66, .single (.none .opsize)), (0x88, .second T88), (0x8A, .second T8A), (0x8B, .second T8B),
   (0x90, .single (.none .nop)),
   (0xA0, .single (addrTail (a0AddrRule.width m w) .movAlAddr)),
   (0xA1, .single (addrTail (a1AddrRule.width m w) .movAxAddr))] ++
  [(0xB0, .single (.byte .movAlImm8)), (0xB1, .single (.byte .movClImm8)),
   (0xB2, .single (.byte .movDlImm8)), (0xB3, .single (.byte .movBlImm8)),
   (0xB4, .single (.byte .movAhImm8)), (0xB5, .single (.byte .movChImm8)),
   (0xB6, .single (.byte .movDhImm8)), (0xB7, .single (.byte .movBhImm8))] ++
  [(0xB8, .single (immTail w .movAxImm)), (0xB9, .single (immTail w .movCxImm)),
   (0xBA, .single (immTail w .movDxImm)), (0xBB, .single (immTail w .movBxImm)),
   (0xEB, .single (.byte .jmpRel8)), (0xF4, .single (.none .hlt)),
   (0xFE, .second TFE), (0xFF, .second TFF)]

/-- What an opcode byte selects, if it is supported. -/
def opcodeEntry (m : Mode) (w : Width) (op : Byte) : Option Entry := (opcodeRows m w).lookup op

/-! ## Decoding a window of bytes -/

/-- The six bytes from `EIP` on: the longest instruction has six (R80). -/
structure Window where
  b0 : Byte
  b1 : Byte
  b2 : Byte
  b3 : Byte
  b4 : Byte
  b5 : Byte
deriving DecidableEq, Repr

/-- The window that begins with the bytes given, zeros after them. -/
def Window.ofBytes (l : List Byte) : Window :=
  ⟨l.getD 0 0, l.getD 1 0, l.getD 2 0, l.getD 3 0, l.getD 4 0, l.getD 5 0⟩

/-- The bytes of a window, lowest address first. -/
def Window.bytes (b : Window) : List Byte := [b.b0, b.b1, b.b2, b.b3, b.b4, b.b5]

/-- What a window decodes to: an instruction, or one of the two rejections of R92 and R93. -/
inductive Decoded where
  | instr (i : Instr)
  | invalidOpcode (b : Byte)
  | unsupportedSecondByte (op sb : Byte)
deriving DecidableEq, Repr

/-- The instruction that a tail completes with the four bytes that follow. -/
def Tail.read (t : Tail) (x0 x1 x2 x3 : Byte) : Instr :=
  match t with
  | .none i => i
  | .byte k => k x0
  | .word k => k (le16 x0 x1)
  | .dword k => k (le32 x0 x1 x2 x3)

/-- The decoder: total on every six bytes, in mode `m` with operand width `w`. -/
def decode (m : Mode) (w : Width) (b : Window) : Decoded :=
  match opcodeEntry m w b.b0 with
  | none => .invalidOpcode b.b0
  | some (.single t) => .instr (t.read b.b1 b.b2 b.b3 b.b4)
  | some (.second table) =>
    match table b.b1 with
    | none => .unsupportedSecondByte b.b0 b.b1
    | some t => .instr (t.read b.b2 b.b3 b.b4 b.b5)

/-! ## Encoding, written from the tables of R86 to R91 -/

/-- The bytes of an address operand (R52). -/
def Addr.bytes : Addr → List Byte
  | .a16 a => [byteOf a 0, byteOf a 1]
  | .a32 a => [byteOf a 0, byteOf a 1, byteOf a 2, byteOf a 3]

/-- The bytes of an immediate (R52). -/
def Imm.bytes : Imm → List Byte
  | .i16 v => [byteOf v 0, byteOf v 1]
  | .i32 v => [byteOf v 0, byteOf v 1, byteOf v 2, byteOf v 3]

/-- The bytes of an instruction, lowest address first. -/
def Instr.encode : Instr → List Byte
  | .incAx => [0x40]
  | .incCx => [0x41]
  | .incDx => [0x42]
  | .incBx => [0x43]
  | .opsize => [0x66]
  | .movAlAl => [0x88, 0xC0]
  | .movAlCl => [0x88, 0xC8]
  | .movAlDl => [0x88, 0xD0]
  | .movAlBl => [0x88, 0xD8]
  | .movAlAh => [0x88, 0xE0]
  | .movAlCh => [0x88, 0xE8]
  | .movAlBh => [0x88, 0xF8]
  | .movClAl => [0x88, 0xC1]
  | .movClCl => [0x88, 0xC9]
  | .movClDl => [0x88, 0xD1]
  | .movClBl => [0x88, 0xD9]
  | .movClAh => [0x88, 0xE1]
  | .movClCh => [0x88, 0xE9]
  | .movClBh => [0x88, 0xF9]
  | .movDlAl => [0x88, 0xC2]
  | .movDlCl => [0x88, 0xCA]
  | .movDlDl => [0x88, 0xD2]
  | .movDlBl => [0x88, 0xDA]
  | .movDlAh => [0x88, 0xE2]
  | .movDlCh => [0x88, 0xEA]
  | .movDlBh => [0x88, 0xFA]
  | .movBlAl => [0x88, 0xC3]
  | .movBlCl => [0x88, 0xCB]
  | .movBlDl => [0x88, 0xD3]
  | .movBlBl => [0x88, 0xDB]
  | .movBlAh => [0x88, 0xE3]
  | .movBlCh => [0x88, 0xEB]
  | .movBlBh => [0x88, 0xFB]
  | .movAhAl => [0x88, 0xC4]
  | .movAhCl => [0x88, 0xCC]
  | .movAhDl => [0x88, 0xD4]
  | .movAhBl => [0x88, 0xDC]
  | .movAhAh => [0x88, 0xE4]
  | .movAhCh => [0x88, 0xEC]
  | .movAhBh => [0x88, 0xFC]
  | .movChAl => [0x88, 0xC5]
  | .movChCl => [0x88, 0xCD]
  | .movChDl => [0x88, 0xD5]
  | .movChBl => [0x88, 0xDD]
  | .movChAh => [0x88, 0xE5]
  | .movChCh => [0x88, 0xED]
  | .movChBh => [0x88, 0xFD]
  | .movBhAl => [0x88, 0xC7]
  | .movBhCl => [0x88, 0xCF]
  | .movBhDl => [0x88, 0xD7]
  | .movBhBl => [0x88, 0xDF]
  | .movBhAh => [0x88, 0xE7]
  | .movBhCh => [0x88, 0xEF]
  | .movBhBh => [0x88, 0xFF]
  | .movClA16 a => [0x8A, 0x0E] ++ (Addr.a16 a).bytes
  | .movClA32 a => [0x8A, 0x0D] ++ (Addr.a32 a).bytes
  | .movDlA16 a => [0x8A, 0x16] ++ (Addr.a16 a).bytes
  | .movDlA32 a => [0x8A, 0x15] ++ (Addr.a32 a).bytes
  | .movBlA16 a => [0x8A, 0x1E] ++ (Addr.a16 a).bytes
  | .movBlA32 a => [0x8A, 0x1D] ++ (Addr.a32 a).bytes
  | .movAhA16 a => [0x8A, 0x26] ++ (Addr.a16 a).bytes
  | .movAhA32 a => [0x8A, 0x25] ++ (Addr.a32 a).bytes
  | .movChA16 a => [0x8A, 0x2E] ++ (Addr.a16 a).bytes
  | .movChA32 a => [0x8A, 0x2D] ++ (Addr.a32 a).bytes
  | .movDhA16 a => [0x8A, 0x36] ++ (Addr.a16 a).bytes
  | .movDhA32 a => [0x8A, 0x35] ++ (Addr.a32 a).bytes
  | .movBhA16 a => [0x8A, 0x3E] ++ (Addr.a16 a).bytes
  | .movBhA32 a => [0x8A, 0x3D] ++ (Addr.a32 a).bytes
  | .movCxA16 a => [0x8B, 0x0E] ++ (Addr.a16 a).bytes
  | .movCxA32 a => [0x8B, 0x0D] ++ (Addr.a32 a).bytes
  | .movDxA16 a => [0x8B, 0x16] ++ (Addr.a16 a).bytes
  | .movDxA32 a => [0x8B, 0x15] ++ (Addr.a32 a).bytes
  | .movBxA16 a => [0x8B, 0x1E] ++ (Addr.a16 a).bytes
  | .movBxA32 a => [0x8B, 0x1D] ++ (Addr.a32 a).bytes
  | .nop => [0x90]
  | .movAlAddr a => [0xA0] ++ a.bytes
  | .movAxAddr a => [0xA1] ++ a.bytes
  | .movAlImm8 v => [0xB0, v]
  | .movClImm8 v => [0xB1, v]
  | .movDlImm8 v => [0xB2, v]
  | .movBlImm8 v => [0xB3, v]
  | .movAhImm8 v => [0xB4, v]
  | .movChImm8 v => [0xB5, v]
  | .movDhImm8 v => [0xB6, v]
  | .movBhImm8 v => [0xB7, v]
  | .movAxImm v => [0xB8] ++ v.bytes
  | .movCxImm v => [0xB9] ++ v.bytes
  | .movDxImm v => [0xBA] ++ v.bytes
  | .movBxImm v => [0xBB] ++ v.bytes
  | .jmpRel8 v => [0xEB, v]
  | .hlt => [0xF4]
  | .incByteA16 a => [0xFE, 0x06] ++ (Addr.a16 a).bytes
  | .incByteA32 a => [0xFE, 0x05] ++ (Addr.a32 a).bytes
  | .incAl => [0xFE, 0xC0]
  | .incCl => [0xFE, 0xC1]
  | .incDl => [0xFE, 0xC2]
  | .incBl => [0xFE, 0xC3]
  | .incAh => [0xFE, 0xC4]
  | .incCh => [0xFE, 0xC5]
  | .incDh => [0xFE, 0xC6]
  | .incBh => [0xFE, 0xC7]
  | .incWordA16 a => [0xFF, 0x06] ++ (Addr.a16 a).bytes
  | .incWordA32 a => [0xFF, 0x05] ++ (Addr.a32 a).bytes

/-- The size in bytes of an operand of a width. -/
def Width.bytes : Width → Nat
  | .w16 => 2
  | .w32 => 4

/-- The sizes of the `Fetch` calls an instruction makes, in order: the opcode byte, the second byte where there is one,
the operand field where there is one (R84, R85). -/
def Instr.fetchSizes : Instr → List Nat
  | .movAlAddr a | .movAxAddr a => [1, a.width.bytes]
  | .movAxImm v | .movCxImm v | .movDxImm v | .movBxImm v => [1, v.width.bytes]
  | .incAx | .incCx | .incDx | .incBx | .opsize | .nop | .hlt => [1]
  | .movAlAl | .movAlCl | .movAlDl | .movAlBl | .movAlAh | .movAlCh | .movAlBh | .movClAl | .movClCl
  | .movClDl | .movClBl | .movClAh | .movClCh | .movClBh | .movDlAl | .movDlCl | .movDlDl | .movDlBl
  | .movDlAh | .movDlCh | .movDlBh | .movBlAl | .movBlCl | .movBlDl | .movBlBl | .movBlAh | .movBlCh
  | .movBlBh | .movAhAl | .movAhCl | .movAhDl | .movAhBl | .movAhAh | .movAhCh | .movAhBh | .movChAl
  | .movChCl | .movChDl | .movChBl | .movChAh | .movChCh | .movChBh | .movBhAl | .movBhCl | .movBhDl
  | .movBhBl | .movBhAh | .movBhCh | .movBhBh | .incAl | .incCl | .incDl | .incBl | .incAh | .incCh | .incDh
  | .incBh => [1, 1]
  | .movAlImm8 _ | .movClImm8 _ | .movDlImm8 _ | .movBlImm8 _ | .movAhImm8 _ | .movChImm8 _ | .movDhImm8 _
  | .movBhImm8 _ | .jmpRel8 _ => [1, 1]
  | .movClA16 _ | .movDlA16 _ | .movBlA16 _ | .movAhA16 _ | .movChA16 _ | .movDhA16 _ | .movBhA16 _
  | .movCxA16 _ | .movDxA16 _ | .movBxA16 _ | .incByteA16 _ | .incWordA16 _ => [1, 1, 2]
  | .movClA32 _ | .movDlA32 _ | .movBlA32 _ | .movAhA32 _ | .movChA32 _ | .movDhA32 _ | .movBhA32 _
  | .movCxA32 _ | .movDxA32 _ | .movBxA32 _ | .incByteA32 _ | .incWordA32 _ => [1, 1, 4]

/-- The length of an instruction in bytes (R85). -/
def Instr.length (i : Instr) : Nat := i.fetchSizes.sum

/-- The number of `Fetch` calls an instruction makes (R85): its `Clock` ticks but for the epilogue's. -/
def Instr.fetches (i : Instr) : Nat := i.fetchSizes.length

/-- The opcode byte of an instruction. -/
def Instr.opcode (i : Instr) : Byte := i.encode.headD 0

/-! ## The words of spec/opcode_table.json (log 19) -/

/-- The `n` bytes of the number `w`, most significant first: how the table writes a row, the opcode byte first
(spec/30_encoding.md, preamble). -/
def opcodeFirstBytes (n w : Nat) : List Byte := (List.range n).map fun k => BitVec.ofNat 8 (w / 2 ^ (8 * (n - 1 - k)))

/-- The `n` bytes of the number `w`, least significant first. -/
def lowFirstBytes (n w : Nat) : List Byte := (List.range n).map fun k => BitVec.ofNat 8 (w / 2 ^ (8 * k))

/-- The window of a table word: the table's own numbering; the other order only for a number that is no instruction in
it (log 19). -/
def tableWindow (nbits w : Nat) : Window :=
  match decode Config.initMode (operandWidth Config.initMode Config.initLookback)
      (Window.ofBytes (opcodeFirstBytes (nbits / 8) w)) with
  | .instr _ => Window.ofBytes (opcodeFirstBytes (nbits / 8) w)
  | _ => Window.ofBytes (lowFirstBytes (nbits / 8) w)

/-- The instruction the decoder reads from a table word, in the context of `State.reset`. -/
def decodeTableWord (nbits w : Nat) : Option Instr :=
  match decode Config.initMode (operandWidth Config.initMode Config.initLookback) (tableWindow nbits w) with
  | .instr i => some i
  | _ => none

end Sys2Proof
end

