-- ==== Sys2Proof/Machine/Operands.lean ====
section
/-!
DEFINITION. Operands: the register views and their aliasing (spec/10_state.md R22 to R25), the operand width W of a state
(spec/40_sequencer_and_prefix.md R114), effective addresses (spec/20_memory.md R64), the jump target
(spec/43_control.md R211).
-/

namespace Sys2Proof.Machine

/-! ## The 32-bit registers -/

/-- A register of the file. -/
def Regs.get (g : Regs) (r : Gpr) : Word32 :=
  match r with
  | .eax => g.eax
  | .ecx => g.ecx
  | .edx => g.edx
  | .ebx => g.ebx
  | .esp => g.esp
  | .ebp => g.ebp
  | .esi => g.esi
  | .edi => g.edi

/-- The file with one register changed. -/
def Regs.set (g : Regs) (r : Gpr) (v : Word32) : Regs :=
  match r with
  | .eax => { g with eax := v }
  | .ecx => { g with ecx := v }
  | .edx => { g with edx := v }
  | .ebx => { g with ebx := v }
  | .esp => { g with esp := v }
  | .ebp => { g with ebp := v }
  | .esi => { g with esi := v }
  | .edi => { g with edi := v }

/-! ## Views of a 32-bit value: reads (R24) and mask-and-or writes (R25) -/

/-- The low word, bits 15 to 0. -/
def lowWord (x : Word32) : Word16 := x.extractLsb' 0 16

/-- The low byte, bits 7 to 0. -/
def lowByte (x : Word32) : Byte := x.extractLsb' 0 8

/-- The high byte of the low word, bits 15 to 8. -/
def highByte (x : Word32) : Byte := x.extractLsb' 8 8

/-- Write the low word: `(x AND 0xFFFF0000) OR v`. -/
def setLowWord (x : Word32) (v : Word16) : Word32 := (x &&& 0xFFFF0000#32) ||| v.setWidth 32

/-- Write the low byte: `(x AND 0xFFFFFF00) OR v`. -/
def setLowByte (x : Word32) (v : Byte) : Word32 := (x &&& 0xFFFFFF00#32) ||| v.setWidth 32

/-- Write the high byte: `(x AND 0xFFFF00FF) OR (v << 8)`. -/
def setHighByte (x : Word32) (v : Byte) : Word32 := (x &&& 0xFFFF00FF#32) ||| (v.setWidth 32 <<< 8)

/-! ## The 8-bit registers (R23) -/

/-- The 32-bit register an 8-bit view lies in. -/
def parent (r : Reg8) : Gpr :=
  match r with
  | .al | .ah => .eax
  | .cl | .ch => .ecx
  | .dl | .dh => .edx
  | .bl | .bh => .ebx

/-- Whether an 8-bit view is the high byte of the low word. -/
def isHigh (r : Reg8) : Bool :=
  match r with
  | .al | .cl | .dl | .bl => false
  | .ah | .ch | .dh | .bh => true

/-- Read an 8-bit view. -/
def Regs.get8 (g : Regs) (r : Reg8) : Byte :=
  if isHigh r then highByte (g.get (parent r)) else lowByte (g.get (parent r))

/-- Write an 8-bit view. -/
def Regs.set8 (g : Regs) (r : Reg8) (v : Byte) : Regs :=
  g.set (parent r)
    (if isHigh r then setHighByte (g.get (parent r)) v else setLowByte (g.get (parent r)) v)

/-- Read a 16-bit view. -/
def Regs.get16 (g : Regs) (r : Gpr) : Word16 := lowWord (g.get r)

/-- Write a 16-bit view. -/
def Regs.set16 (g : Regs) (r : Gpr) (v : Word16) : Regs := g.set r (setLowWord (g.get r) v)

/-! ## The state with a register written -/

/-- `R32[r] <- v`. -/
def State.setGpr (s : State) (r : Gpr) (v : Word32) : State := { s with regs := s.regs.set r v }

/-- `R16[r] <- v`. -/
def State.setGpr16 (s : State) (r : Gpr) (v : Word16) : State := { s with regs := s.regs.set16 r v }

/-- `R8[r] <- v`. -/
def State.setReg8 (s : State) (r : Reg8) (v : Byte) : State := { s with regs := s.regs.set8 r v }

/-! ## Width, addresses, jump target -/

/-- The operand width W of the instruction dispatched in this state (R114). -/
def State.width (s : State) : Width := operandWidth s.mode s.lookback

/-- The effective address of an address operand: 16-bit operands are zero-extended (R64, D18; log 12). -/
def effective (a : Addr) : Word32 :=
  match a with
  | .a16 a => a.setWidth 32
  | .a32 a => a

/-- `JMP_MODULUS` (R5, R211): the modulus of the jump's new `EIP`, not the memory size. -/
def jmpModulus : Nat := 256

/-- `JMP_BIAS` (R5, R211; G6, log 20): added on top of `EIP` after the operand and the operand. -/
def jmpBias : Nat := 1

/-- The target of a jump from `EIP` after the operand; the operand is taken as 0 to 255 (R211, D23). -/
def jumpTarget (eip : Word32) (rel8 : Byte) : Word32 :=
  BitVec.ofNat 32 ((eip.toNat + rel8.toNat + jmpBias) % jmpModulus)

end Sys2Proof.Machine
end

