-- ==== Sys2Proof/Machine/Ops.lean ====
section
/-!
DEFINITION. The shared operations: the fetch path (spec/20_memory.md R56, R57), the addressed path (R53 to R55), the
epilogue (spec/40_sequencer_and_prefix.md R113), taking a failure (spec/60_exceptions.md R221, R222, R227), and one
operation for each shape of instruction. There is no return from a failure (R228), so there is no operation for one.
-/

namespace Sys2Proof.Machine

/-! ## The fetch path -/

/-- The byte the fetch path reads `i` places after `EIP`, each byte address wrapping (R56, R57, D9; log 10). -/
def fetchAt (s : State) (i : Nat) : Byte := s.mem.read ((s.eip.toNat + i) % Config.memSize)

/-- What one `Fetch(n)` does to the state: `EIP` advances modulo `MEM_SIZE`, `Clock` ticks once. -/
def advance (n : Nat) (s : State) : State :=
  { s with eip := BitVec.ofNat 32 ((s.eip.toNat + n) % Config.memSize), clock := s.clock + 1 }

/-- `Fetch(1)`. -/
def fetchByte (s : State) : Byte × State := (fetchAt s 0, advance 1 s)

/-- `Fetch(2)`. -/
def fetchWord (s : State) : Word16 × State := (le16 (fetchAt s 0) (fetchAt s 1), advance 2 s)

/-- `Fetch(4)`. -/
def fetchDword (s : State) : Word32 × State :=
  (le32 (fetchAt s 0) (fetchAt s 1) (fetchAt s 2) (fetchAt s 3), advance 4 s)

/-- The opcode fetch, `Current <- Fetch(1)` (R111); operand fetches do not write `Current` (D26; log 21). -/
def fetchOpcode (s : State) : State := { (fetchByte s).2 with current := (fetchByte s).1 }

/-- Fetch the operand field of an instruction, if it has one, and complete the instruction (R84). -/
def fetchTail (t : Tail) (s : State) : Instr × State :=
  match t with
  | .none i => (i, s)
  | .byte k => (k (fetchByte s).1, (fetchByte s).2)
  | .word k => (k (fetchWord s).1, (fetchWord s).2)
  | .dword k => (k (fetchDword s).1, (fetchDword s).2)

/-- The six bytes the fetch path would read from `EIP` on. -/
def State.window (s : State) : Window :=
  ⟨fetchAt s 0, fetchAt s 1, fetchAt s 2, fetchAt s 3, fetchAt s 4, fetchAt s 5⟩

/-! ## The addressed path -/

/-- The bounds check: `n` bytes at `a` lie in the store, the sum in unbounded integers (R55, D7; log 8). -/
def inStore (a : Word32) (n : Nat) : Bool := decide (a.toNat + n ≤ Config.memSize)

/-- `MemRead(a, 1)`. -/
def readByteAt (a : Word32) (s : State) : Except Failure Byte :=
  if inStore a 1 then .ok (s.mem.read a.toNat) else .error (.memoryFault a)

/-- `MemRead(a, 2)`. -/
def readWordAt (a : Word32) (s : State) : Except Failure Word16 :=
  if inStore a 2 then .ok (le16 (s.mem.read a.toNat) (s.mem.read (a.toNat + 1))) else .error (.memoryFault a)

/-- `MemRead(a, 4)`. -/
def readDwordAt (a : Word32) (s : State) : Except Failure Word32 :=
  if inStore a 4 then
    .ok (le32 (s.mem.read a.toNat) (s.mem.read (a.toNat + 1)) (s.mem.read (a.toNat + 2)) (s.mem.read (a.toNat + 3)))
  else .error (.memoryFault a)

/-- `MemWrite(a, 1, v)`. -/
def writeByteAt (a : Word32) (v : Byte) (s : State) : Except Failure State :=
  if inStore a 1 then .ok { s with mem := s.mem.write a.toNat v } else .error (.memoryFault a)

/-- `MemWrite(a, 2, v)`: ascending byte writes (R54). -/
def writeWordAt (a : Word32) (v : Word16) (s : State) : Except Failure State :=
  if inStore a 2 then
    .ok { s with mem := (s.mem.write a.toNat (byteOf v 0)).write (a.toNat + 1) (byteOf v 1) }
  else .error (.memoryFault a)

/-- `MemWrite(a, 4, v)`: ascending byte writes (R54). -/
def writeDwordAt (a : Word32) (v : Word32) (s : State) : Except Failure State :=
  if inStore a 4 then
    .ok { s with
      mem := (((s.mem.write a.toNat (byteOf v 0)).write (a.toNat + 1) (byteOf v 1)).write
        (a.toNat + 2) (byteOf v 2)).write (a.toNat + 3) (byteOf v 3) }
  else .error (.memoryFault a)

/-! ## The end of a dispatch -/

/-- The epilogue of every completed dispatch (R113). -/
def epilogue (s : State) : State :=
  { s with lookback := s.current, instr := s.instr + 1, clock := s.clock + 1 }

/-- Taking a failure: halting and recording it. Nothing is saved, nothing is rolled back, no epilogue runs, and control
goes nowhere (R120, R221, R222, R227, D8; log 9). -/
def raise (f : Failure) (s : State) : State := { s with halted := true, fault := some f }

/-- A dispatch whose operation either completed, and then runs the epilogue, or failed in state `s` before any write. -/
def finish (s : State) (r : Except Failure State) : Result :=
  match r with
  | .ok t => .next (epilogue t)
  | .error f => .next (raise f s)

/-! ## One operation for each shape of instruction -/

/-- An instruction that is only its epilogue (R116, R210). -/
def noOperation (s : State) : Result := .next (epilogue s)

/-- INC of a 16- or 32-bit register, by W (R131 to R134). -/
def incGpr (r : Gpr) (s : State) : Result :=
  match s.width with
  | .w16 => .next (epilogue (s.setGpr16 r (inc (s.regs.get16 r))))
  | .w32 => .next (epilogue (s.setGpr r (inc (s.regs.get r))))

/-- INC of an 8-bit register (R138 to R145). -/
def incReg8 (r : Reg8) (s : State) : Result := .next (epilogue (s.setReg8 r (inc (s.regs.get8 r))))

/-- INC of the byte at an address: one read, one write (R136, R137). -/
def incMemByte (a : Addr) (s : State) : Result :=
  finish s (do
    let x ← readByteAt (effective a) s
    writeByteAt (effective a) (inc x) s)

/-- INC of the word or dword at an address, by W: one read, one write (R147, R148). -/
def incMemW (a : Addr) (s : State) : Result :=
  match s.width with
  | .w16 =>
    finish s (do
      let x ← readWordAt (effective a) s
      writeWordAt (effective a) (inc x) s)
  | .w32 =>
    finish s (do
      let x ← readDwordAt (effective a) s
      writeDwordAt (effective a) (inc x) s)

/-- MOV of one 8-bit register to another, destination first (R161). -/
def movReg8 (d src : Reg8) (s : State) : Result := .next (epilogue (s.setReg8 d (s.regs.get8 src)))

/-- MOV of the byte at an address to an 8-bit register (R169, R181). -/
def loadReg8 (d : Reg8) (a : Addr) (s : State) : Result :=
  finish s (do
    let x ← readByteAt (effective a) s
    .ok (s.setReg8 d x))

/-- MOV of the word or dword at an address to a register, by W (R177, R182). -/
def loadGpr (d : Gpr) (a : Addr) (s : State) : Result :=
  match s.width with
  | .w16 =>
    finish s (do
      let x ← readWordAt (effective a) s
      .ok (s.setGpr16 d x))
  | .w32 =>
    finish s (do
      let x ← readDwordAt (effective a) s
      .ok (s.setGpr d x))

/-- MOV of an immediate byte to an 8-bit register (R183 to R190). -/
def movImm8 (d : Reg8) (v : Byte) (s : State) : Result := .next (epilogue (s.setReg8 d v))

/-- MOV of an immediate to a register, at the immediate's own width, which decoding sets to W (R84, R191; log 22). -/
def movImm (d : Gpr) (v : Imm) (s : State) : Result :=
  match v with
  | .i16 v => .next (epilogue (s.setGpr16 d v))
  | .i32 v => .next (epilogue (s.setGpr d v))

/-- JMP (R211). -/
def jump (rel8 : Byte) (s : State) : Result := .next (epilogue { s with eip := jumpTarget s.eip rel8 })

/-- HLT (R212): the HLT itself is counted. -/
def halt (s : State) : Result := .next (epilogue { s with halted := true })

end Sys2Proof.Machine
end

