-- ==== Sys2Proof/Machine/Agents.lean ====
section
/-!
DEFINITION. The moves of the other agents: the sampler (spec/60_exceptions.md R231) and the host
(spec/70_reset_and_hazards.md R252). Each is one move at an instruction boundary (R121; log 13).
-/

namespace Sys2Proof.Machine

/-- The sampler reads `Instr`: the first half of R231 (log 16). -/
def sampleInstr (s : State) : State := { s with instrDelta := s.instr - s.instrOld, instrOld := s.instr }

/-- The sampler reads `Clock`: the second half of R231 (log 16). -/
def sampleClock (s : State) : State := { s with clockDelta := s.clock - s.clockOld, clockOld := s.clock }

/-- Construction (R43, R250): everything of the engine to its reset value, whatever it was; the contents of memory are
the argument `INIT_MEM`. What is not the engine stays: the queue of moves, and what the host has read. -/
def hostConstruct (m : Mode) (contents : Memory) (s : State) : Result :=
  .next { State.construct m (Memory.ofCells contents) with agenda := s.agenda, draws := s.draws, view := s.view }

/-- The loader writes one byte: in run state `Stopped` only, inside the store only (R252). -/
def hostLoad (a : Nat) (v : Byte) (s : State) : Result :=
  if s.started then .refused .loadOutsideStopped
  else if a < Config.memSize then .next { s with mem := s.mem.write a v }
  else .refused (.loadOutsideStore a)

/-- `Start`: in run state `Stopped` only; it clears `Halted` and changes nothing else (R253, R254). -/
def hostStart (s : State) : Result :=
  if s.started then .refused .startOutsideStopped else .next { s with halted := false, started := true }

/-- `Stop`: `Halted <- true` and nothing else (R225, D21). -/
def hostStop (s : State) : Result := .next { s with halted := true }

/-- What the observation surface holds (R44). -/
def observe (s : State) : View :=
  { eax := s.regs.eax, ebx := s.regs.ebx, ecx := s.regs.ecx, edx := s.regs.edx, eip := s.eip
    instrDelta := s.instrDelta, clockDelta := s.clockDelta }

/-- What a read during a run returns: free values, fresh ones for every read (R70, D22; log 15). -/
def staleView (k : Nat) : View :=
  { eax := Config.staleWord k, ebx := Config.staleWord (k + 1), ecx := Config.staleWord (k + 2)
    edx := Config.staleWord (k + 3), eip := Config.staleWord (k + 4)
    instrDelta := Config.staleCounter k, clockDelta := Config.staleCounter (k + 1) }

/-- The host reads the observation surface: what it holds when the loop is not running, any value during a run. -/
def hostRead (s : State) : Result :=
  if s.halted then .next { s with view := some (observe s) }
  else .next { s with view := some (staleView s.draws), draws := s.draws + 5 }

end Sys2Proof.Machine
end

