-- ==== Sys2Proof/Machine/Control.lean ====
section
/-!
DEFINITION. The prefix 0x66 (spec/40_sequencer_and_prefix.md R116) and the control instructions (spec/43_control.md): NOP,
JMP, HLT. One meaning for each instruction; it begins after the last byte of the instruction has been fetched and ends
with the epilogue (spec/00_scope.md R10).
-/

namespace Sys2Proof.Machine

/-- OPSIZE (operand-size override prefix) (R116). -/
def execOpsize (s : State) : Result := noOperation s

/-- NOP (R210). -/
def execNop (s : State) : Result := noOperation s

/-- JMP rel8 (R211). -/
def execJmpRel8 (v : Byte) (s : State) : Result := jump v s

/-- HLT (R212). -/
def execHlt (s : State) : Result := halt s

end Sys2Proof.Machine
end

