-- ==== Sys2Proof/Machine/Inc.lean ====
section
/-!
DEFINITION. The increment instructions (spec/41_inc.md): opcodes 0x40 to 0x43, 0xFE, 0xFF. One meaning for each
instruction, each one line over a shared operation of Ops.lean; it begins after the last byte of the instruction has
been fetched and ends with the epilogue (spec/00_scope.md R10).
-/

namespace Sys2Proof.Machine

/-- INC AX / INC EAX (R131). -/
def execIncAx (s : State) : Result := incGpr .eax s

/-- INC CX / INC ECX (R132). -/
def execIncCx (s : State) : Result := incGpr .ecx s

/-- INC DX / INC EDX (R133). -/
def execIncDx (s : State) : Result := incGpr .edx s

/-- INC BX / INC EBX (R134). -/
def execIncBx (s : State) : Result := incGpr .ebx s

/-- INC BYTE [addr16] (R136). -/
def execIncByteA16 (a : Word16) (s : State) : Result := incMemByte (Addr.a16 a) s

/-- INC BYTE [addr32] (R137). -/
def execIncByteA32 (a : Word32) (s : State) : Result := incMemByte (Addr.a32 a) s

/-- INC AL (R138). -/
def execIncAl (s : State) : Result := incReg8 .al s

/-- INC CL (R139). -/
def execIncCl (s : State) : Result := incReg8 .cl s

/-- INC DL (R140). -/
def execIncDl (s : State) : Result := incReg8 .dl s

/-- INC BL (R141). -/
def execIncBl (s : State) : Result := incReg8 .bl s

/-- INC AH (R142). -/
def execIncAh (s : State) : Result := incReg8 .ah s

/-- INC CH (R143). -/
def execIncCh (s : State) : Result := incReg8 .ch s

/-- INC DH (R144). -/
def execIncDh (s : State) : Result := incReg8 .dh s

/-- INC BH (R145). -/
def execIncBh (s : State) : Result := incReg8 .bh s

/-- INC WORD [addr16] / INC DWORD [addr16] (R147). -/
def execIncWordA16 (a : Word16) (s : State) : Result := incMemW (Addr.a16 a) s

/-- INC WORD [addr32] / INC DWORD [addr32] (R148). -/
def execIncWordA32 (a : Word32) (s : State) : Result := incMemW (Addr.a32 a) s

end Sys2Proof.Machine
end

