-- ==== Sys2Proof/Machine/Mov.lean ====
section
/-!
DEFINITION. The move instructions (spec/42_mov.md): opcodes 0x88, 0x8A, 0x8B, 0xA0, 0xA1, 0xB0 to 0xB7, 0xB8 to 0xBB. One
meaning for each instruction, each one line over a shared operation of Ops.lean; it begins after the last byte of the
instruction has been fetched and ends with the epilogue (spec/00_scope.md R10).
-/

namespace Sys2Proof.Machine

/-- MOV AL, AL (R162). -/
def execMovAlAl (s : State) : Result := movReg8 .al .al s

/-- MOV AL, CL (R162). -/
def execMovAlCl (s : State) : Result := movReg8 .al .cl s

/-- MOV AL, DL (R162). -/
def execMovAlDl (s : State) : Result := movReg8 .al .dl s

/-- MOV AL, BL (R162). -/
def execMovAlBl (s : State) : Result := movReg8 .al .bl s

/-- MOV AL, AH (R162). -/
def execMovAlAh (s : State) : Result := movReg8 .al .ah s

/-- MOV AL, CH (R162). -/
def execMovAlCh (s : State) : Result := movReg8 .al .ch s

/-- MOV AL, BH (R162). -/
def execMovAlBh (s : State) : Result := movReg8 .al .bh s

/-- MOV CL, AL (R163). -/
def execMovClAl (s : State) : Result := movReg8 .cl .al s

/-- MOV CL, CL (R163). -/
def execMovClCl (s : State) : Result := movReg8 .cl .cl s

/-- MOV CL, DL (R163). -/
def execMovClDl (s : State) : Result := movReg8 .cl .dl s

/-- MOV CL, BL (R163). -/
def execMovClBl (s : State) : Result := movReg8 .cl .bl s

/-- MOV CL, AH (R163). -/
def execMovClAh (s : State) : Result := movReg8 .cl .ah s

/-- MOV CL, CH (R163). -/
def execMovClCh (s : State) : Result := movReg8 .cl .ch s

/-- MOV CL, BH (R163). -/
def execMovClBh (s : State) : Result := movReg8 .cl .bh s

/-- MOV DL, AL (R164). -/
def execMovDlAl (s : State) : Result := movReg8 .dl .al s

/-- MOV DL, CL (R164). -/
def execMovDlCl (s : State) : Result := movReg8 .dl .cl s

/-- MOV DL, DL (R164). -/
def execMovDlDl (s : State) : Result := movReg8 .dl .dl s

/-- MOV DL, BL (R164). -/
def execMovDlBl (s : State) : Result := movReg8 .dl .bl s

/-- MOV DL, AH (R164). -/
def execMovDlAh (s : State) : Result := movReg8 .dl .ah s

/-- MOV DL, CH (R164). -/
def execMovDlCh (s : State) : Result := movReg8 .dl .ch s

/-- MOV DL, BH (R164). -/
def execMovDlBh (s : State) : Result := movReg8 .dl .bh s

/-- MOV BL, AL (R165). -/
def execMovBlAl (s : State) : Result := movReg8 .bl .al s

/-- MOV BL, CL (R165). -/
def execMovBlCl (s : State) : Result := movReg8 .bl .cl s

/-- MOV BL, DL (R165). -/
def execMovBlDl (s : State) : Result := movReg8 .bl .dl s

/-- MOV BL, BL (R165). -/
def execMovBlBl (s : State) : Result := movReg8 .bl .bl s

/-- MOV BL, AH (R165). -/
def execMovBlAh (s : State) : Result := movReg8 .bl .ah s

/-- MOV BL, CH (R165). -/
def execMovBlCh (s : State) : Result := movReg8 .bl .ch s

/-- MOV BL, BH (R165). -/
def execMovBlBh (s : State) : Result := movReg8 .bl .bh s

/-- MOV AH, AL (R166). -/
def execMovAhAl (s : State) : Result := movReg8 .ah .al s

/-- MOV AH, CL (R166). -/
def execMovAhCl (s : State) : Result := movReg8 .ah .cl s

/-- MOV AH, DL (R166). -/
def execMovAhDl (s : State) : Result := movReg8 .ah .dl s

/-- MOV AH, BL (R166). -/
def execMovAhBl (s : State) : Result := movReg8 .ah .bl s

/-- MOV AH, AH (R166). -/
def execMovAhAh (s : State) : Result := movReg8 .ah .ah s

/-- MOV AH, CH (R166). -/
def execMovAhCh (s : State) : Result := movReg8 .ah .ch s

/-- MOV AH, BH (R166). -/
def execMovAhBh (s : State) : Result := movReg8 .ah .bh s

/-- MOV CH, AL (R167). -/
def execMovChAl (s : State) : Result := movReg8 .ch .al s

/-- MOV CH, CL (R167). -/
def execMovChCl (s : State) : Result := movReg8 .ch .cl s

/-- MOV CH, DL (R167). -/
def execMovChDl (s : State) : Result := movReg8 .ch .dl s

/-- MOV CH, BL (R167). -/
def execMovChBl (s : State) : Result := movReg8 .ch .bl s

/-- MOV CH, AH (R167). -/
def execMovChAh (s : State) : Result := movReg8 .ch .ah s

/-- MOV CH, CH (R167). -/
def execMovChCh (s : State) : Result := movReg8 .ch .ch s

/-- MOV CH, BH (R167). -/
def execMovChBh (s : State) : Result := movReg8 .ch .bh s

/-- MOV BH, AL (R168). -/
def execMovBhAl (s : State) : Result := movReg8 .bh .al s

/-- MOV BH, CL (R168). -/
def execMovBhCl (s : State) : Result := movReg8 .bh .cl s

/-- MOV BH, DL (R168). -/
def execMovBhDl (s : State) : Result := movReg8 .bh .dl s

/-- MOV BH, BL (R168). -/
def execMovBhBl (s : State) : Result := movReg8 .bh .bl s

/-- MOV BH, AH (R168). -/
def execMovBhAh (s : State) : Result := movReg8 .bh .ah s

/-- MOV BH, CH (R168). -/
def execMovBhCh (s : State) : Result := movReg8 .bh .ch s

/-- MOV BH, BH (R168). -/
def execMovBhBh (s : State) : Result := movReg8 .bh .bh s

/-- MOV CL, [addr16] (R170). -/
def execMovClA16 (a : Word16) (s : State) : Result := loadReg8 .cl (Addr.a16 a) s

/-- MOV CL, [addr32] (R170). -/
def execMovClA32 (a : Word32) (s : State) : Result := loadReg8 .cl (Addr.a32 a) s

/-- MOV DL, [addr16] (R171). -/
def execMovDlA16 (a : Word16) (s : State) : Result := loadReg8 .dl (Addr.a16 a) s

/-- MOV DL, [addr32] (R171). -/
def execMovDlA32 (a : Word32) (s : State) : Result := loadReg8 .dl (Addr.a32 a) s

/-- MOV BL, [addr16] (R172). -/
def execMovBlA16 (a : Word16) (s : State) : Result := loadReg8 .bl (Addr.a16 a) s

/-- MOV BL, [addr32] (R172). -/
def execMovBlA32 (a : Word32) (s : State) : Result := loadReg8 .bl (Addr.a32 a) s

/-- MOV AH, [addr16] (R173). -/
def execMovAhA16 (a : Word16) (s : State) : Result := loadReg8 .ah (Addr.a16 a) s

/-- MOV AH, [addr32] (R173). -/
def execMovAhA32 (a : Word32) (s : State) : Result := loadReg8 .ah (Addr.a32 a) s

/-- MOV CH, [addr16] (R174). -/
def execMovChA16 (a : Word16) (s : State) : Result := loadReg8 .ch (Addr.a16 a) s

/-- MOV CH, [addr32] (R174). -/
def execMovChA32 (a : Word32) (s : State) : Result := loadReg8 .ch (Addr.a32 a) s

/-- MOV DH, [addr16] (R175). -/
def execMovDhA16 (a : Word16) (s : State) : Result := loadReg8 .dh (Addr.a16 a) s

/-- MOV DH, [addr32] (R175). -/
def execMovDhA32 (a : Word32) (s : State) : Result := loadReg8 .dh (Addr.a32 a) s

/-- MOV BH, [addr16] (R176). -/
def execMovBhA16 (a : Word16) (s : State) : Result := loadReg8 .bh (Addr.a16 a) s

/-- MOV BH, [addr32] (R176). -/
def execMovBhA32 (a : Word32) (s : State) : Result := loadReg8 .bh (Addr.a32 a) s

/-- MOV CX, [addr16] / MOV ECX, [addr16] (R178). -/
def execMovCxA16 (a : Word16) (s : State) : Result := loadGpr .ecx (Addr.a16 a) s

/-- MOV CX, [addr32] / MOV ECX, [addr32] (R178). -/
def execMovCxA32 (a : Word32) (s : State) : Result := loadGpr .ecx (Addr.a32 a) s

/-- MOV DX, [addr16] / MOV EDX, [addr16] (R179). -/
def execMovDxA16 (a : Word16) (s : State) : Result := loadGpr .edx (Addr.a16 a) s

/-- MOV DX, [addr32] / MOV EDX, [addr32] (R179). -/
def execMovDxA32 (a : Word32) (s : State) : Result := loadGpr .edx (Addr.a32 a) s

/-- MOV BX, [addr16] / MOV EBX, [addr16] (R180). -/
def execMovBxA16 (a : Word16) (s : State) : Result := loadGpr .ebx (Addr.a16 a) s

/-- MOV BX, [addr32] / MOV EBX, [addr32] (R180). -/
def execMovBxA32 (a : Word32) (s : State) : Result := loadGpr .ebx (Addr.a32 a) s

/-- MOV AL, [addr] (R181). -/
def execMovAlAddr (a : Addr) (s : State) : Result := loadReg8 .al a s

/-- MOV AX, [addr16] / MOV EAX, [addr32] (R182). -/
def execMovAxAddr (a : Addr) (s : State) : Result := loadGpr .eax a s

/-- MOV AL, imm8 (R183). -/
def execMovAlImm8 (v : Byte) (s : State) : Result := movImm8 .al v s

/-- MOV CL, imm8 (R184). -/
def execMovClImm8 (v : Byte) (s : State) : Result := movImm8 .cl v s

/-- MOV DL, imm8 (R185). -/
def execMovDlImm8 (v : Byte) (s : State) : Result := movImm8 .dl v s

/-- MOV BL, imm8 (R186). -/
def execMovBlImm8 (v : Byte) (s : State) : Result := movImm8 .bl v s

/-- MOV AH, imm8 (R187). -/
def execMovAhImm8 (v : Byte) (s : State) : Result := movImm8 .ah v s

/-- MOV CH, imm8 (R188). -/
def execMovChImm8 (v : Byte) (s : State) : Result := movImm8 .ch v s

/-- MOV DH, imm8 (R189). -/
def execMovDhImm8 (v : Byte) (s : State) : Result := movImm8 .dh v s

/-- MOV BH, imm8 (R190). -/
def execMovBhImm8 (v : Byte) (s : State) : Result := movImm8 .bh v s

/-- MOV AX, imm16 / MOV EAX, imm32 (R192). -/
def execMovAxImm (v : Imm) (s : State) : Result := movImm .eax v s

/-- MOV CX, imm16 / MOV ECX, imm32 (R193). -/
def execMovCxImm (v : Imm) (s : State) : Result := movImm .ecx v s

/-- MOV DX, imm16 / MOV EDX, imm32 (R194). -/
def execMovDxImm (v : Imm) (s : State) : Result := movImm .edx v s

/-- MOV BX, imm16 / MOV EBX, imm32 (R195). -/
def execMovBxImm (v : Imm) (s : State) : Result := movImm .ebx v s

end Sys2Proof.Machine
end

