-- ==== Sys2Proof/Machine/Dispatch.lean ====
section
/-!
DEFINITION. One arm for each instruction: its meaning.
-/

namespace Sys2Proof.Machine

def exec (i : Instr) (s : State) : Host.Outcome State Fault Refusal :=
  match i with
  | .incAx => Sys2Proof.Machine.execIncAx s
  | .incCx => Sys2Proof.Machine.execIncCx s
  | .incDx => Sys2Proof.Machine.execIncDx s
  | .incBx => Sys2Proof.Machine.execIncBx s
  | .opsize => Sys2Proof.Machine.execOpsize s
  | .movAlAl => Sys2Proof.Machine.execMovAlAl s
  | .movAlCl => Sys2Proof.Machine.execMovAlCl s
  | .movAlDl => Sys2Proof.Machine.execMovAlDl s
  | .movAlBl => Sys2Proof.Machine.execMovAlBl s
  | .movAlAh => Sys2Proof.Machine.execMovAlAh s
  | .movAlCh => Sys2Proof.Machine.execMovAlCh s
  | .movAlBh => Sys2Proof.Machine.execMovAlBh s
  | .movClAl => Sys2Proof.Machine.execMovClAl s
  | .movClCl => Sys2Proof.Machine.execMovClCl s
  | .movClDl => Sys2Proof.Machine.execMovClDl s
  | .movClBl => Sys2Proof.Machine.execMovClBl s
  | .movClAh => Sys2Proof.Machine.execMovClAh s
  | .movClCh => Sys2Proof.Machine.execMovClCh s
  | .movClBh => Sys2Proof.Machine.execMovClBh s
  | .movDlAl => Sys2Proof.Machine.execMovDlAl s
  | .movDlCl => Sys2Proof.Machine.execMovDlCl s
  | .movDlDl => Sys2Proof.Machine.execMovDlDl s
  | .movDlBl => Sys2Proof.Machine.execMovDlBl s
  | .movDlAh => Sys2Proof.Machine.execMovDlAh s
  | .movDlCh => Sys2Proof.Machine.execMovDlCh s
  | .movDlBh => Sys2Proof.Machine.execMovDlBh s
  | .movBlAl => Sys2Proof.Machine.execMovBlAl s
  | .movBlCl => Sys2Proof.Machine.execMovBlCl s
  | .movBlDl => Sys2Proof.Machine.execMovBlDl s
  | .movBlBl => Sys2Proof.Machine.execMovBlBl s
  | .movBlAh => Sys2Proof.Machine.execMovBlAh s
  | .movBlCh => Sys2Proof.Machine.execMovBlCh s
  | .movBlBh => Sys2Proof.Machine.execMovBlBh s
  | .movAhAl => Sys2Proof.Machine.execMovAhAl s
  | .movAhCl => Sys2Proof.Machine.execMovAhCl s
  | .movAhDl => Sys2Proof.Machine.execMovAhDl s
  | .movAhBl => Sys2Proof.Machine.execMovAhBl s
  | .movAhAh => Sys2Proof.Machine.execMovAhAh s
  | .movAhCh => Sys2Proof.Machine.execMovAhCh s
  | .movAhBh => Sys2Proof.Machine.execMovAhBh s
  | .movChAl => Sys2Proof.Machine.execMovChAl s
  | .movChCl => Sys2Proof.Machine.execMovChCl s
  | .movChDl => Sys2Proof.Machine.execMovChDl s
  | .movChBl => Sys2Proof.Machine.execMovChBl s
  | .movChAh => Sys2Proof.Machine.execMovChAh s
  | .movChCh => Sys2Proof.Machine.execMovChCh s
  | .movChBh => Sys2Proof.Machine.execMovChBh s
  | .movBhAl => Sys2Proof.Machine.execMovBhAl s
  | .movBhCl => Sys2Proof.Machine.execMovBhCl s
  | .movBhDl => Sys2Proof.Machine.execMovBhDl s
  | .movBhBl => Sys2Proof.Machine.execMovBhBl s
  | .movBhAh => Sys2Proof.Machine.execMovBhAh s
  | .movBhCh => Sys2Proof.Machine.execMovBhCh s
  | .movBhBh => Sys2Proof.Machine.execMovBhBh s
  | .movClA16 a => Sys2Proof.Machine.execMovClA16 a s
  | .movClA32 a => Sys2Proof.Machine.execMovClA32 a s
  | .movDlA16 a => Sys2Proof.Machine.execMovDlA16 a s
  | .movDlA32 a => Sys2Proof.Machine.execMovDlA32 a s
  | .movBlA16 a => Sys2Proof.Machine.execMovBlA16 a s
  | .movBlA32 a => Sys2Proof.Machine.execMovBlA32 a s
  | .movAhA16 a => Sys2Proof.Machine.execMovAhA16 a s
  | .movAhA32 a => Sys2Proof.Machine.execMovAhA32 a s
  | .movChA16 a => Sys2Proof.Machine.execMovChA16 a s
  | .movChA32 a => Sys2Proof.Machine.execMovChA32 a s
  | .movDhA16 a => Sys2Proof.Machine.execMovDhA16 a s
  | .movDhA32 a => Sys2Proof.Machine.execMovDhA32 a s
  | .movBhA16 a => Sys2Proof.Machine.execMovBhA16 a s
  | .movBhA32 a => Sys2Proof.Machine.execMovBhA32 a s
  | .movCxA16 a => Sys2Proof.Machine.execMovCxA16 a s
  | .movCxA32 a => Sys2Proof.Machine.execMovCxA32 a s
  | .movDxA16 a => Sys2Proof.Machine.execMovDxA16 a s
  | .movDxA32 a => Sys2Proof.Machine.execMovDxA32 a s
  | .movBxA16 a => Sys2Proof.Machine.execMovBxA16 a s
  | .movBxA32 a => Sys2Proof.Machine.execMovBxA32 a s
  | .nop => Sys2Proof.Machine.execNop s
  | .movAlAddr a => Sys2Proof.Machine.execMovAlAddr a s
  | .movAxAddr a => Sys2Proof.Machine.execMovAxAddr a s
  | .movAlImm8 v => Sys2Proof.Machine.execMovAlImm8 v s
  | .movClImm8 v => Sys2Proof.Machine.execMovClImm8 v s
  | .movDlImm8 v => Sys2Proof.Machine.execMovDlImm8 v s
  | .movBlImm8 v => Sys2Proof.Machine.execMovBlImm8 v s
  | .movAhImm8 v => Sys2Proof.Machine.execMovAhImm8 v s
  | .movChImm8 v => Sys2Proof.Machine.execMovChImm8 v s
  | .movDhImm8 v => Sys2Proof.Machine.execMovDhImm8 v s
  | .movBhImm8 v => Sys2Proof.Machine.execMovBhImm8 v s
  | .movAxImm v => Sys2Proof.Machine.execMovAxImm v s
  | .movCxImm v => Sys2Proof.Machine.execMovCxImm v s
  | .movDxImm v => Sys2Proof.Machine.execMovDxImm v s
  | .movBxImm v => Sys2Proof.Machine.execMovBxImm v s
  | .jmpRel8 v => Sys2Proof.Machine.execJmpRel8 v s
  | .hlt => Sys2Proof.Machine.execHlt s
  | .incByteA16 a => Sys2Proof.Machine.execIncByteA16 a s
  | .incByteA32 a => Sys2Proof.Machine.execIncByteA32 a s
  | .incAl => Sys2Proof.Machine.execIncAl s
  | .incCl => Sys2Proof.Machine.execIncCl s
  | .incDl => Sys2Proof.Machine.execIncDl s
  | .incBl => Sys2Proof.Machine.execIncBl s
  | .incAh => Sys2Proof.Machine.execIncAh s
  | .incCh => Sys2Proof.Machine.execIncCh s
  | .incDh => Sys2Proof.Machine.execIncDh s
  | .incBh => Sys2Proof.Machine.execIncBh s
  | .incWordA16 a => Sys2Proof.Machine.execIncWordA16 a s
  | .incWordA32 a => Sys2Proof.Machine.execIncWordA32 a s

end Sys2Proof.Machine
end

