-- ==== Sys2Proof/Machine/Worker.lean ====
section
/-!
DEFINITION. The worker (spec/40_sequencer_and_prefix.md R110 to R112): one iteration of the run loop, in the order the
spec gives: opcode fetch, opcode map, second byte, operand field, operation.
-/

namespace Sys2Proof.Machine

/-- Fetch the operand field, then run the instruction it completes. -/
def runTail (t : Tail) (s : State) : Result := exec (fetchTail t s).1 (fetchTail t s).2

/-- The dispatch of `Current` (R112): an unsupported opcode takes `InvalidOpcode` (R213); a second byte without a table
entry is refused (R223). -/
def dispatch (s : State) : Result :=
  match opcodeEntry s.mode s.width s.current with
  | none => .next (raise (.invalidOpcode s.current) s)
  | some (.single t) => runTail t s
  | some (.second table) =>
    match table (fetchByte s).1 with
    | none => .refused (.unsupportedSecondByte s.current (fetchByte s).1)
    | some t => runTail t (fetchByte s).2

/-- One iteration of the run loop; when `Halted` is set the loop is not running and the worker does nothing (R110, R236;
log 14). -/
def workerStep (s : State) : Result :=
  match s.halted with
  | true => .next s
  | false => dispatch (fetchOpcode s)

end Sys2Proof.Machine
end

