-- ==== Sys2Proof/Machine/Step.lean ====
section
/-!
DEFINITION. One step of the machine: the agent that the queue of moves names, and the worker when the queue is empty
(spec/60_exceptions.md R234; log 13). And the placing of an instruction where the worker fetches next (log 18).
-/

namespace Sys2Proof.Machine

/-- A move of an agent. -/
def perform (m : Move) (s : State) : Result :=
  match m with
  | .worker => workerStep s
  | .sampleInstr => .next (sampleInstr s)
  | .sampleClock => .next (sampleClock s)
  | .construct mode contents => hostConstruct mode contents s
  | .load a v => hostLoad a v s
  | .start => hostStart s
  | .stop => hostStop s
  | .read => hostRead s

/-- One step of the machine. -/
def step (s : State) : Result :=
  match s.agenda with
  | [] => workerStep s
  | m :: rest => perform m { s with agenda := rest }

/-- The state with bytes placed from `EIP` on, the way the fetch path reads them (R56). -/
def State.placed (s : State) (bytes : List Byte) : State :=
  { s with
    mem := (bytes.zipIdx).foldl (fun m c => m.write ((s.eip.toNat + c.2) % Config.memSize) c.1) s.mem }

/-- The state with an instruction of spec/opcode_table.json loaded where the worker fetches next, and `Start` called, so
that the next step runs it (R251, R253; log 18). -/
def State.withFetchWord (s : State) (nbits w : Nat) : State :=
  { s.placed (tableWindow nbits w).bytes with halted := false, started := true, agenda := [] }

end Sys2Proof.Machine
end

