-- ==== Sys2Proof/Safety.lean ====
section
/-!
DEFINITION. The terms in which claims about the machine are stated: run states and ends of a run, the invariant, what a
completed instruction changes, and what it means that bytes at `EIP` dispatch an instruction.
-/

namespace Sys2Proof.Machine

/-! ## Run states and ends of a run -/

/-- The three run states the source names (R33). -/
inductive RunState where
  | stopped
  | running
  | halted
deriving DecidableEq, Repr

/-- The run state, from `Halted` and from whether `Start` has been called (R33). -/
def State.runState (s : State) : RunState :=
  if s.halted then (if s.started then .halted else .stopped) else .running

/-- The orderly end of a run: the last completed dispatch was HLT (R255, cause 1). -/
def State.orderlyEnd (s : State) : Prop :=
  s.runState = .halted ∧ s.fault = none ∧ s.lookback = 0xF4#8

/-! ## The opcode bytes and second bytes, written again from the spec's lists -/

/-- The 27 supported opcode bytes (R1). -/
def supportedOpcode (b : Byte) : Bool :=
  [0x40#8, 0x41#8, 0x42#8, 0x43#8, 0x66#8, 0x88#8, 0x8A#8, 0x8B#8, 0x90#8, 0xA0#8, 0xA1#8, 0xB0#8, 0xB1#8, 0xB2#8,
   0xB3#8, 0xB4#8, 0xB5#8, 0xB6#8, 0xB7#8, 0xB8#8, 0xB9#8, 0xBA#8, 0xBB#8, 0xEB#8, 0xF4#8, 0xFE#8, 0xFF#8].contains b

/-- The second bytes with an entry in the opcode's table, as the tables of R87 to R91 list them (decision D1, log 1). -/
def definedSecondByte (op sb : Byte) : Bool :=
  if op = 0x88#8 then
    [0xC0#8, 0xC1#8, 0xC2#8, 0xC3#8, 0xC4#8, 0xC5#8, 0xC7#8, 0xC8#8, 0xC9#8, 0xCA#8, 0xCB#8, 0xCC#8, 0xCD#8, 0xCF#8,
     0xD0#8, 0xD1#8, 0xD2#8, 0xD3#8, 0xD4#8, 0xD5#8, 0xD7#8, 0xD8#8, 0xD9#8, 0xDA#8, 0xDB#8, 0xDC#8, 0xDD#8, 0xDF#8,
     0xE0#8, 0xE1#8, 0xE2#8, 0xE3#8, 0xE4#8, 0xE5#8, 0xE7#8, 0xE8#8, 0xE9#8, 0xEA#8, 0xEB#8, 0xEC#8, 0xED#8, 0xEF#8,
     0xF8#8, 0xF9#8, 0xFA#8, 0xFB#8, 0xFC#8, 0xFD#8, 0xFF#8].contains sb
  else if op = 0x8A#8 then
    [0x0E#8, 0x0D#8, 0x16#8, 0x15#8, 0x1E#8, 0x1D#8, 0x26#8, 0x25#8, 0x2E#8, 0x2D#8, 0x36#8, 0x35#8, 0x3E#8,
     0x3D#8].contains sb
  else if op = 0x8B#8 then [0x0E#8, 0x0D#8, 0x16#8, 0x15#8, 0x1E#8, 0x1D#8].contains sb
  else if op = 0xFE#8 then
    [0x06#8, 0x05#8, 0xC0#8, 0xC1#8, 0xC2#8, 0xC3#8, 0xC4#8, 0xC5#8, 0xC6#8, 0xC7#8].contains sb
  else if op = 0xFF#8 then [0x06#8, 0x05#8].contains sb
  else false

/-- The five opcodes that take a second byte (R80). -/
def takesSecondByte (op : Byte) : Bool := [0x88#8, 0x8A#8, 0x8B#8, 0xFE#8, 0xFF#8].contains op

/-! ## The invariant -/

/-- What holds of the state in every run, whatever the agents do.
`memory` : the canonical form, addresses inside the store (R50).
`eip` : `EIP` is an index into memory (R28).
`running` : a running engine has been started and has recorded no failure (R33, R34).
`fresh` : before `Start` nothing has run (R43, R253).
`lookback` : a supported opcode or the reset value (R38).
`unreached` : EBP, ESP, ESI, EDI keep their reset value (R26). -/
structure State.Inv (s : State) : Prop where
  memory : s.mem.wf = true
  eip : s.eip.toNat < Config.memSize
  running : s.halted = false → s.started = true ∧ s.fault = none
  fresh : s.started = false →
    s.regs = Regs.zero ∧ s.eip = 0 ∧ s.lookback = Config.initLookback ∧ s.fault = none ∧ s.instr = 0 ∧ s.clock = 0
  lookback : s.lookback = Config.initLookback ∨ supportedOpcode s.lookback = true
  unreached : s.regs.esp = 0 ∧ s.regs.ebp = 0 ∧ s.regs.esi = 0 ∧ s.regs.edi = 0

/-! ## What a completed instruction changes -/

/-- `t` is `s` after a completed instruction that changes registers alone: the registers apart, only the epilogue's three
updates (R113); every byte of memory reads as before. -/
def RetiresRegs (s t : State) : Prop :=
  t = { s with regs := t.regs, lookback := s.current, instr := s.instr + 1, clock := s.clock + 1 } ∧
  ∀ x, t.mem.read x = s.mem.read x

/-- `t` is `s` after a completed instruction that stores `n` bytes at `a`: memory apart, only the epilogue's three updates
(R113); every byte outside the stored ones reads as before. -/
def RetiresStore (a : Word32) (n : Nat) (s t : State) : Prop :=
  t = { s with mem := t.mem, lookback := s.current, instr := s.instr + 1, clock := s.clock + 1 } ∧
  ∀ x, (x < a.toNat ∨ a.toNat + n ≤ x) → t.mem.read x = s.mem.read x

/-- Every bit of the register file outside the 8-bit view `d` is unchanged (R25): the other 8-bit views, bits 31 to 16 of
every register, and the four registers without views. -/
def OnlyReg8 (d : Reg8) (s t : State) : Prop :=
  (∀ q, q ≠ d → t.regs.get8 q = s.regs.get8 q) ∧
  (∀ r, (t.regs.get r).extractLsb' 16 16 = (s.regs.get r).extractLsb' 16 16) ∧
  t.regs.esp = s.regs.esp ∧ t.regs.ebp = s.regs.ebp ∧ t.regs.esi = s.regs.esi ∧ t.regs.edi = s.regs.edi

/-- Register `r` has the value `v` in its low word and its old bits 31 to 16, and no other register has changed (R25). -/
def WritesWord (r : Gpr) (v : Word16) (s t : State) : Prop :=
  (t.regs.get r).extractLsb' 0 16 = v ∧
  (t.regs.get r).extractLsb' 16 16 = (s.regs.get r).extractLsb' 16 16 ∧
  ∀ q, q ≠ r → t.regs.get q = s.regs.get q

/-- Register `r` has the value `v`, and no other register has changed. -/
def WritesDword (r : Gpr) (v : Word32) (s t : State) : Prop :=
  t.regs.get r = v ∧ ∀ q, q ≠ r → t.regs.get q = s.regs.get q

/-- `t` is `s` after `MemoryFault(a)`: halted, the failure recorded, nothing else changed (R120, R222; log 9). -/
def Faults (a : Word32) (s t : State) : Prop := t = { s with halted := true, fault := some (.memoryFault a) }

/-! ## Values in memory, as numbers (R52) -/

/-- The word at an address: two bytes, the first the less significant. -/
def wordAt (m : Memory) (a : Nat) : Nat := (m.read a).toNat + 256 * (m.read (a + 1)).toNat

/-- The dword at an address: four bytes, the first the least significant. -/
def dwordAt (m : Memory) (a : Nat) : Nat := wordAt m a + 65536 * wordAt m (a + 2)

/-! ## Dispatching -/

/-- The run loop is running and the worker moves next. -/
def WorkerNext (s : State) : Prop := s.halted = false ∧ s.agenda = []

/-- The bytes that the fetch path reads from `EIP` on, wrapping at the end of the store, begin with these (R56, R57). -/
def BytesAtEip (s : State) (l : List Byte) : Prop :=
  ∀ k b, l[k]? = some b → s.mem.read ((s.eip.toNat + k) % Config.memSize) = b

/-- The state after the fetches of an instruction with opcode byte `op`, `n` bytes long, in `f` calls of `Fetch`. -/
def State.afterFetch (s : State) (op : Byte) (n f : Nat) : State :=
  { s with
    eip := BitVec.ofNat 32 ((s.eip.toNat + n) % Config.memSize)
    clock := s.clock + BitVec.ofNat 64 f
    current := op }

/-- The bytes dispatch the instruction: in every state that meets `ctx`, when the worker moves next and `op :: rest` stands
at `EIP`, one step is `exec i` of the state after the fetches, `f` calls of `Fetch` over all the bytes. -/
def Dispatches (ctx : State → Prop) (op : Byte) (rest : List Byte) (f : Nat) (i : Instr) : Prop :=
  ∀ s, WorkerNext s → ctx s → BytesAtEip s (op :: rest) →
    step s = exec i (s.afterFetch op (rest.length + 1) f)

/-- Every state: for instructions whose bytes do not depend on `Mode` and `Lookback`. -/
def anyState (_ : State) : Prop := True

/-! ## Who uses the operand width -/

/-- The opcode bytes that use W (R114): 0x40 to 0x43, 0x8B, 0xA1, 0xB8 to 0xBB, 0xFF. -/
def usesWidth (op : Byte) : Bool :=
  [0x40#8, 0x41#8, 0x42#8, 0x43#8, 0x8B#8, 0xA1#8, 0xB8#8, 0xB9#8, 0xBA#8, 0xBB#8, 0xFF#8].contains op

/-! ## Who accesses memory -/

/-- The bytes that an access of the operand width moves. -/
def widthBytes (w : Width) : Nat :=
  match w with
  | .w16 => 2
  | .w32 => 4

/-- The addressed access of an instruction dispatched with operand width W, if it makes one: its address operand and the
bytes moved there, written from the `MemRead` of its rule (R136, R137, R147, R148, R169, R177, R181, R182). -/
def accessOf (w : Width) (i : Instr) : Option (Addr × Nat) :=
  match i with
  | .movClA16 a | .movDlA16 a | .movBlA16 a | .movAhA16 a | .movChA16 a | .movDhA16 a | .movBhA16 a
  | .incByteA16 a => some (.a16 a, 1)
  | .movClA32 a | .movDlA32 a | .movBlA32 a | .movAhA32 a | .movChA32 a | .movDhA32 a | .movBhA32 a
  | .incByteA32 a => some (.a32 a, 1)
  | .movAlAddr a => some (a, 1)
  | .movCxA16 a | .movDxA16 a | .movBxA16 a | .incWordA16 a => some (.a16 a, widthBytes w)
  | .movCxA32 a | .movDxA32 a | .movBxA32 a | .incWordA32 a => some (.a32 a, widthBytes w)
  | .movAxAddr a => some (a, widthBytes w)
  | .incAx | .incCx | .incDx | .incBx | .opsize | .movAlAl | .movAlCl | .movAlDl | .movAlBl | .movAlAh
  | .movAlCh | .movAlBh | .movClAl | .movClCl | .movClDl | .movClBl | .movClAh | .movClCh | .movClBh
  | .movDlAl | .movDlCl | .movDlDl | .movDlBl | .movDlAh | .movDlCh | .movDlBh | .movBlAl | .movBlCl
  | .movBlDl | .movBlBl | .movBlAh | .movBlCh | .movBlBh | .movAhAl | .movAhCl | .movAhDl | .movAhBl
  | .movAhAh | .movAhCh | .movAhBh | .movChAl | .movChCl | .movChDl | .movChBl | .movChAh | .movChCh
  | .movChBh | .movBhAl | .movBhCl | .movBhDl | .movBhBl | .movBhAh | .movBhCh | .movBhBh | .nop
  | .movAlImm8 _ | .movClImm8 _ | .movDlImm8 _ | .movBlImm8 _ | .movAhImm8 _ | .movChImm8 _ | .movDhImm8 _
  | .movBhImm8 _ | .movAxImm _ | .movCxImm _ | .movDxImm _ | .movBxImm _ | .jmpRel8 _ | .hlt | .incAl
  | .incCl | .incDl | .incBl | .incAh | .incCh | .incDh | .incBh => none

/-- INC BYTE of an address, in the form of the address (R136, R137). -/
def incByteAt (a : Addr) : Instr :=
  match a with
  | .a16 a => .incByteA16 a
  | .a32 a => .incByteA32 a

/-- INC WORD/DWORD of an address, in the form of the address (R147, R148). -/
def incWordAt (a : Addr) : Instr :=
  match a with
  | .a16 a => .incWordA16 a
  | .a32 a => .incWordA32 a

/-! ## Comparing runs -/

/-- Apply a change to the next state of an outcome, if there is one. -/
def onNext (f : State → State) (r : Result) : Result :=
  match r with
  | .next t => .next (f t)
  | .fault e => .fault e
  | .refused e => .refused e

/-- The state with other contents of the sampler's four snapshots. -/
def State.withSnapshots (io d co e : Counter) (s : State) : State :=
  { s with instrOld := io, instrDelta := d, clockOld := co, clockDelta := e }

/-! ## The rows of the opcode table that statements range over, written from R81 and R87 to R90 -/

/-- 0x40 to 0x43: opcode byte, instruction, register (R131 to R134). -/
def incRows : List (Byte × Instr × Gpr) :=
  [(0x40, .incAx, .eax), (0x41, .incCx, .ecx), (0x42, .incDx, .edx), (0x43, .incBx, .ebx)]

/-- 0xFE, register forms: second byte, instruction, register (R138 to R145). -/
def incReg8Rows : List (Byte × Instr × Reg8) :=
  [(0xC0, .incAl, .al), (0xC1, .incCl, .cl), (0xC2, .incDl, .dl), (0xC3, .incBl, .bl),
   (0xC4, .incAh, .ah), (0xC5, .incCh, .ch), (0xC6, .incDh, .dh), (0xC7, .incBh, .bh)]

/-- 0x88 with destination AL: second byte, instruction, destination, source (R162). -/
def movAlRows : List (Byte × Instr × Reg8 × Reg8) :=
  [(0xC0, .movAlAl, .al, .al), (0xC8, .movAlCl, .al, .cl), (0xD0, .movAlDl, .al, .dl),
   (0xD8, .movAlBl, .al, .bl), (0xE0, .movAlAh, .al, .ah), (0xE8, .movAlCh, .al, .ch),
   (0xF8, .movAlBh, .al, .bh)]

/-- 0x88 with destination CL: second byte, instruction, destination, source (R163). -/
def movClRows : List (Byte × Instr × Reg8 × Reg8) :=
  [(0xC1, .movClAl, .cl, .al), (0xC9, .movClCl, .cl, .cl), (0xD1, .movClDl, .cl, .dl),
   (0xD9, .movClBl, .cl, .bl), (0xE1, .movClAh, .cl, .ah), (0xE9, .movClCh, .cl, .ch),
   (0xF9, .movClBh, .cl, .bh)]

/-- 0x88 with destination DL: second byte, instruction, destination, source (R164). -/
def movDlRows : List (Byte × Instr × Reg8 × Reg8) :=
  [(0xC2, .movDlAl, .dl, .al), (0xCA, .movDlCl, .dl, .cl), (0xD2, .movDlDl, .dl, .dl),
   (0xDA, .movDlBl, .dl, .bl), (0xE2, .movDlAh, .dl, .ah), (0xEA, .movDlCh, .dl, .ch),
   (0xFA, .movDlBh, .dl, .bh)]

/-- 0x88 with destination BL: second byte, instruction, destination, source (R165). -/
def movBlRows : List (Byte × Instr × Reg8 × Reg8) :=
  [(0xC3, .movBlAl, .bl, .al), (0xCB, .movBlCl, .bl, .cl), (0xD3, .movBlDl, .bl, .dl),
   (0xDB, .movBlBl, .bl, .bl), (0xE3, .movBlAh, .bl, .ah), (0xEB, .movBlCh, .bl, .ch),
   (0xFB, .movBlBh, .bl, .bh)]

/-- 0x88 with destination AH: second byte, instruction, destination, source (R166). -/
def movAhRows : List (Byte × Instr × Reg8 × Reg8) :=
  [(0xC4, .movAhAl, .ah, .al), (0xCC, .movAhCl, .ah, .cl), (0xD4, .movAhDl, .ah, .dl),
   (0xDC, .movAhBl, .ah, .bl), (0xE4, .movAhAh, .ah, .ah), (0xEC, .movAhCh, .ah, .ch),
   (0xFC, .movAhBh, .ah, .bh)]

/-- 0x88 with destination CH: second byte, instruction, destination, source (R167). -/
def movChRows : List (Byte × Instr × Reg8 × Reg8) :=
  [(0xC5, .movChAl, .ch, .al), (0xCD, .movChCl, .ch, .cl), (0xD5, .movChDl, .ch, .dl),
   (0xDD, .movChBl, .ch, .bl), (0xE5, .movChAh, .ch, .ah), (0xED, .movChCh, .ch, .ch),
   (0xFD, .movChBh, .ch, .bh)]

/-- 0x88 with destination BH: second byte, instruction, destination, source (R168). -/
def movBhRows : List (Byte × Instr × Reg8 × Reg8) :=
  [(0xC7, .movBhAl, .bh, .al), (0xCF, .movBhCl, .bh, .cl), (0xD7, .movBhDl, .bh, .dl),
   (0xDF, .movBhBl, .bh, .bl), (0xE7, .movBhAh, .bh, .ah), (0xEF, .movBhCh, .bh, .ch),
   (0xFF, .movBhBh, .bh, .bh)]

/-- 0x88: the 49 pairs (R162 to R168). -/
def movReg8Rows : List (Byte × Instr × Reg8 × Reg8) :=
  movAlRows ++ movClRows ++ movDlRows ++ movBlRows ++ movAhRows ++ movChRows ++ movBhRows

/-- 0x8A: second bytes of the two address forms, the two instructions, destination (R170 to R176). -/
def loadReg8Rows : List (Byte × Byte × (Word16 → Instr) × (Word32 → Instr) × Reg8) :=
  [(0x0E, 0x0D, .movClA16, .movClA32, .cl), (0x16, 0x15, .movDlA16, .movDlA32, .dl),
   (0x1E, 0x1D, .movBlA16, .movBlA32, .bl), (0x26, 0x25, .movAhA16, .movAhA32, .ah),
   (0x2E, 0x2D, .movChA16, .movChA32, .ch), (0x36, 0x35, .movDhA16, .movDhA32, .dh),
   (0x3E, 0x3D, .movBhA16, .movBhA32, .bh)]

/-- 0x8B: second bytes of the two address forms, the two instructions, destination (R178 to R180). -/
def loadGprRows : List (Byte × Byte × (Word16 → Instr) × (Word32 → Instr) × Gpr) :=
  [(0x0E, 0x0D, .movCxA16, .movCxA32, .ecx), (0x16, 0x15, .movDxA16, .movDxA32, .edx),
   (0x1E, 0x1D, .movBxA16, .movBxA32, .ebx)]

/-- 0xB0 to 0xB7: opcode byte, instruction, destination (R183 to R190). -/
def movImm8Rows : List (Byte × (Byte → Instr) × Reg8) :=
  [(0xB0, .movAlImm8, .al), (0xB1, .movClImm8, .cl), (0xB2, .movDlImm8, .dl), (0xB3, .movBlImm8, .bl),
   (0xB4, .movAhImm8, .ah), (0xB5, .movChImm8, .ch), (0xB6, .movDhImm8, .dh), (0xB7, .movBhImm8, .bh)]

/-- 0xB8 to 0xBB: opcode byte, instruction, destination (R192 to R195). -/
def movImmRows : List (Byte × (Imm → Instr) × Gpr) :=
  [(0xB8, .movAxImm, .eax), (0xB9, .movCxImm, .ecx), (0xBA, .movDxImm, .edx), (0xBB, .movBxImm, .ebx)]

end Sys2Proof.Machine
end

