-- ==== Sys2Proof/Certificates/Slice0/Obligations.lean ====
section
/-!
DEFINITION. The statements for the provers. Each docstring names the rule of spec/ that it formalises and, where a clause
rests on a decision of the spec or of the model, that decision and its log entry.
-/

open Sys2Proof Sys2Proof.Machine

/-! ## Encoding -/

/-- Decoding an encoded well-formed instruction gives it back, whatever bytes follow, in every mode and width
(30_encoding.md R81, R82; the second bytes are decision D1, log 1; the address width of 0xA1 is D5, log 3). -/
def Obligations.DecodeOfEncodeIsTheInstruction : Prop :=
  ∀ (m : Mode) (w : Width) (i : Instr) (after : List Byte), i.wf m w = true →
    decode m w (Window.ofBytes (i.encode ++ after)) = .instr i

/-- What a window decodes to is well-formed, and the window begins with its encoding: no two byte sequences are one
instruction, and no bit of an encoding is ignored (R81, R82; D1, log 1). -/
def Obligations.DecodedWindowBeginsWithEncoding : Prop :=
  ∀ (m : Mode) (w : Width) (b : Window) (i : Instr), decode m w b = .instr i →
    i.wf m w = true ∧ ∃ after, b.bytes = i.encode ++ after

/-- Words written out from the spec's encodings, one or more of each family, decode to their instruction (R81, R86 to R91;
second bytes D1, log 1). -/
def Obligations.WordsOfEachFamilyDecode : Prop :=
  (∀ m w, decode m w (Window.ofBytes [0x43, 0xF4]) = .instr .incBx) ∧
  (∀ m w, decode m w (Window.ofBytes [0x66, 0x40]) = .instr .opsize) ∧
  (∀ m w, decode m w (Window.ofBytes [0x88, 0xE0]) = .instr .movAlAh) ∧
  (∀ m w, decode m w (Window.ofBytes [0x8A, 0x15, 0x00, 0x00, 0x02, 0x00]) = .instr (.movDlA32 0x00020000)) ∧
  (∀ m w, decode m w (Window.ofBytes [0x8B, 0x1E, 0x20, 0x01]) = .instr (.movBxA16 0x0120)) ∧
  (∀ m w, decode m w (Window.ofBytes [0x90]) = .instr .nop) ∧
  (∀ w, decode .bits16 w (Window.ofBytes [0xA0, 0x10, 0x32, 0xF4]) = .instr (.movAlAddr (.a16 0x3210))) ∧
  (∀ m, decode m .w32 (Window.ofBytes [0xA1, 0x78, 0x56, 0x34, 0x12]) = .instr (.movAxAddr (.a32 0x12345678))) ∧
  (∀ m w, decode m w (Window.ofBytes [0xB6, 0xAB]) = .instr (.movDhImm8 0xAB)) ∧
  (∀ m, decode m .w16 (Window.ofBytes [0xB9, 0x34, 0x12, 0x66, 0x40]) = .instr (.movCxImm (.i16 0x1234))) ∧
  (∀ m w, decode m w (Window.ofBytes [0xEB, 0xFD]) = .instr (.jmpRel8 0xFD)) ∧
  (∀ m w, decode m w (Window.ofBytes [0xF4]) = .instr .hlt) ∧
  (∀ m w, decode m w (Window.ofBytes [0xFE, 0xC7]) = .instr .incBh) ∧
  (∀ m w, decode m w (Window.ofBytes [0xFF, 0x05, 0x00, 0x00, 0x10, 0x00]) = .instr (.incWordA32 0x00100000))

/-- The opcode byte alone decides whether a window is an invalid opcode: exactly the bytes outside the 27 of R1
(R86, R92). -/
def Obligations.InvalidOpcodesAreExactlyTheUnlisted : Prop :=
  ∀ (m : Mode) (w : Width) (b : Window) (c : Byte),
    decode m w b = .invalidOpcode c ↔ c = b.b0 ∧ supportedOpcode b.b0 = false

/-- Exactly the second bytes without an entry in the tables of R87 to R91 are rejected as such, and only after an opcode
that takes one (R93; the tables are D1, D3 and D4, log 1; the rejection is D2, log 2). -/
def Obligations.ReservedSecondBytesAreExactlyTheUnlisted : Prop :=
  ∀ (m : Mode) (w : Width) (b : Window) (op sb : Byte),
    decode m w b = .unsupportedSecondByte op sb ↔
      op = b.b0 ∧ sb = b.b1 ∧ takesSecondByte op = true ∧ definedSecondByte op sb = false

/-! ## The sequencer -/

/-- A step runs the decoded instruction: when the worker moves (the queue is empty, or names it) and the loop is running,
and the bytes from `EIP` on decode to `i`, one step is `exec i` of the state in which `EIP` has moved past all of the
instruction's bytes modulo `MEM_SIZE`, `Clock` has one tick for each of its `Fetch` calls, and `Current` is its opcode byte
(R29, R110 to R112, R85; wrapping of each byte is D9, log 10; the queue is log 13). -/
def Obligations.StepRunsTheDecodedInstruction : Prop :=
  ∀ (s : State) (i : Instr), s.halted = false → (s.agenda = [] ∨ ∃ rest, s.agenda = .worker :: rest) →
    decode s.mode s.width s.window = .instr i →
    step s = exec i ({ s with agenda := s.agenda.tail }.afterFetch i.opcode i.length i.fetches)

/-- An unsupported opcode byte, when the worker moves (the queue is empty, or names it) and the loop is running, halts the
engine and records `InvalidOpcode` of that byte; `EIP` is one past it, `Clock` has the tick of the opcode fetch, no epilogue
runs and nothing else changes (R213, R221). That `Instr` does not count the byte is the source's; that `Lookback` and the
dispatch tick of `Clock` stay as well is the spec's decision D8 (C6), log 9; the queue is log 13. (The sentence of R92 that no
further byte is looked at is `InvalidOpcodesAreExactlyTheUnlisted`.) -/
def Obligations.InvalidOpcodeHaltsTheEngine : Prop :=
  ∀ (s : State) (b : Byte), s.halted = false → (s.agenda = [] ∨ ∃ rest, s.agenda = .worker :: rest) →
    BytesAtEip s [b] → supportedOpcode b = false →
    step s = .next { s with
      eip := BitVec.ofNat 32 ((s.eip.toNat + 1) % Config.memSize)
      clock := s.clock + 1
      current := b
      halted := true
      fault := some (.invalidOpcode b)
      agenda := s.agenda.tail }

/-- A second byte without an entry has no successor state: the step is refused by name (R93, R223; the spec's decision D2,
log 2; the tables are D1, log 1; the queue is log 13). -/
def Obligations.ReservedSecondByteIsRefused : Prop :=
  ∀ (s : State) (op sb : Byte), s.halted = false → (s.agenda = [] ∨ ∃ rest, s.agenda = .worker :: rest) →
    BytesAtEip s [op, sb] → takesSecondByte op = true → definedSecondByte op sb = false →
    step s = .refused (.unsupportedSecondByte op sb)

/-- Every completed instruction retires once and costs 2, 3 or 4 `Clock` ticks, by its length as the table of R85 has it, and
every instruction but 0xEB leaves `EIP` just past its bytes (R85, R29). -/
def Obligations.LengthAndTicksOfCompletedInstructions : Prop :=
  ∀ (s t : State) (i : Instr), s.halted = false → decode s.mode s.width s.window = .instr i →
    workerStep s = .next t → t.instr ≠ s.instr →
    t.instr = s.instr + 1 ∧
    (i.encode.length = 1 → t.clock = s.clock + 2) ∧
    (i.encode.length = 2 ∨ i.encode.length = 3 ∨ i.encode.length = 5 → t.clock = s.clock + 3) ∧
    (i.encode.length = 4 ∨ i.encode.length = 6 → t.clock = s.clock + 4) ∧
    ((∀ v, i ≠ .jmpRel8 v) → t.eip.toNat = (s.eip.toNat + i.encode.length) % Config.memSize)

/-- The override lasts for one instruction: after a completed dispatch W is the default width of `Mode`, unless the opcode
byte just dispatched was 0x66, and then it is the other width (R115, R117 to R119; `Current` is D26, log 21; that 0x66 is a
completed dispatch is D14, log 11). -/
def Obligations.OverrideLastsForOneInstruction : Prop :=
  ∀ (s t : State), s.halted = false → workerStep s = .next t → t.instr = s.instr + 1 →
    t.width = (if s.mem.read (s.eip.toNat % Config.memSize) = 0x66#8 then
      (match s.mode with | .bits16 => .w32 | .bits32 => .w16)
      else (match s.mode with | .bits16 => .w16 | .bits32 => .w32))

/-- R42, the invariants the source states: (a) after any `Fetch`, `EIP` < `MEM_SIZE`; (b) a write to an 8- or 16-bit view
changes no bit outside that view; (c) `Lookback` is the opcode byte of the previous completed dispatch: a completed dispatch
sets it, nothing else but a construction changes it, and after construction it is the reset value. That a dispatch that fails
keeps `Lookback` is the spec's decision D8 (C6), log 9; that only the opcode fetch gives the byte is D26, log 21; that 0x66 is a
completed dispatch is D14, log 11; the reset value is D11, log 6. -/
def Obligations.SourceInvariantsOfFetchViewsAndLookback : Prop :=
  (∀ s, (fetchByte s).2.eip.toNat < Config.memSize ∧ (fetchWord s).2.eip.toNat < Config.memSize ∧
    (fetchDword s).2.eip.toNat < Config.memSize) ∧
  (∀ (s : State) (d : Reg8) (v : Byte), OnlyReg8 d s (s.setReg8 d v)) ∧
  (∀ (s : State) (r : Gpr) (v : Word16), WritesWord r v s (s.setGpr16 r v)) ∧
  (∀ s t, s.halted = false → workerStep s = .next t → t.instr = s.instr + 1 →
    t.lookback = s.mem.read (s.eip.toNat % Config.memSize)) ∧
  (∀ s t, step s = .next t → t.instr = s.instr + 1 ∨ (∃ m c, s.agenda.head? = some (.construct m c)) ∨
    t.lookback = s.lookback) ∧
  (∀ m c, (State.construct m c).lookback = Config.initLookback)

/-! ## The whole machine -/

/-- Every step of every agent keeps the invariant, from every state that meets it, reachable or not (R26, R28, R33, R34, R38,
R42, R50, R253). -/
def Obligations.StepKeepsTheInvariant : Prop := ∀ s t : State, s.Inv → step s = .next t → t.Inv

/-- Construction meets the invariant, in either mode and with any canonical memory; so does the reset state (R43). -/
def Obligations.ConstructionMeetsTheInvariant : Prop :=
  (∀ (m : Mode) (c : Memory), c.wf = true → (State.construct m c).Inv) ∧ State.reset.Inv

/-- Every instruction answers a next state in every state. When it makes no access, or its access lies in the store, it
completes, with the epilogue's three updates and no failure recorded; when its access of 1, 2 or 4 bytes at its address operand
does not, it takes `MemoryFault` of that address with nothing changed but `Halted` and `Fault` (R113, R120, R220, R222; the exact
check is D7, log 8; that no epilogue runs after a `MemoryFault` is D8, log 9; the zero-extension of an address is D18,
log 12). -/
def Obligations.InstructionsCompleteOrTakeMemoryFault : Prop :=
  ∀ (i : Instr) (s : State), ∃ t, exec i s = .next t ∧
    ((∀ a n, accessOf s.width i = some (a, n) → (effective a).toNat + n ≤ Config.memSize) →
      t.lookback = s.current ∧ t.instr = s.instr + 1 ∧ t.clock = s.clock + 1 ∧ t.fault = s.fault) ∧
    (∀ a n, accessOf s.width i = some (a, n) → Config.memSize < (effective a).toNat + n → Faults (effective a) s t)

/-- No instruction writes `Mode`, `Current`, the four registers without encoding numbers, the sampler's snapshots, or what
belongs to the host; only HLT and a failure set `Halted`; only 0xEB writes `EIP` after the fetch (R26, R28, R30, R32, R33,
R36). -/
def Obligations.WhatNoInstructionWrites : Prop :=
  ∀ (i : Instr) (s t : State), exec i s = .next t →
    t.mode = s.mode ∧ t.current = s.current ∧ t.started = s.started ∧
    t.regs.esp = s.regs.esp ∧ t.regs.ebp = s.regs.ebp ∧ t.regs.esi = s.regs.esi ∧ t.regs.edi = s.regs.edi ∧
    t.instrOld = s.instrOld ∧ t.instrDelta = s.instrDelta ∧ t.clockOld = s.clockOld ∧ t.clockDelta = s.clockDelta ∧
    t.agenda = s.agenda ∧ t.draws = s.draws ∧ t.view = s.view ∧
    (i ≠ .hlt → t.instr = s.instr + 1 → t.halted = s.halted) ∧
    ((∀ v, i ≠ .jmpRel8 v) → t.eip = s.eip)

/-- The only instructions that write memory are the memory forms of 0xFE and 0xFF: after any other, every byte reads as before
(R4, R60, R68, R160). -/
def Obligations.OnlyMemoryIncrementsStore : Prop :=
  ∀ (i : Instr) (s t : State), exec i s = .next t →
    (∀ a, i ≠ .incByteA16 a ∧ i ≠ .incWordA16 a) → (∀ a, i ≠ .incByteA32 a ∧ i ≠ .incWordA32 a) →
    ∀ x, t.mem.read x = s.mem.read x

/-- The sampler touches nothing the worker reads or writes: an iteration of the run loop is the same whatever the snapshots
hold, and leaves them as they were (R121, R231, R232). -/
def Obligations.SamplerDoesNotDisturbTheWorker : Prop :=
  ∀ (s : State) (io d co e : Counter),
    workerStep (s.withSnapshots io d co e) = onNext (State.withSnapshots io d co e) (workerStep s)

/-- A store is seen by the next fetch of each byte stored, with nothing in between (R68, R71; D1, log 1; the wrap is D6,
log 7): after INC BYTE, or INC WORD/DWORD with W = 16 or 32, in either address form (zero-extended by D18, log 12), the fetch
path, reading at a byte the instruction has stored, gets that byte of the old value plus 1. -/
def Obligations.StoredByteIsFetched : Prop :=
  ∀ (s : State) (a : Addr), s.mem.wf = true →
    (∀ k, (s.eip.toNat + k) % Config.memSize = (effective a).toNat →
      ∃ t, exec (incByteAt a) s = .next t ∧ fetchAt t k = BitVec.ofNat 8 ((fetchAt s k).toNat + 1)) ∧
    (∀ k j, s.width = .w16 → (effective a).toNat + 2 ≤ Config.memSize → j < 2 →
      (s.eip.toNat + k) % Config.memSize = (effective a).toNat + j →
      ∃ t, exec (incWordAt a) s = .next t ∧
        fetchAt t k = BitVec.ofNat 8 ((wordAt s.mem (effective a).toNat + 1) / 256 ^ j)) ∧
    (∀ k j, s.width = .w32 → (effective a).toNat + 4 ≤ Config.memSize → j < 4 →
      (s.eip.toNat + k) % Config.memSize = (effective a).toNat + j →
      ∃ t, exec (incWordAt a) s = .next t ∧
        fetchAt t k = BitVec.ofNat 8 ((dwordAt s.mem (effective a).toNat + 1) / 256 ^ j))

/-- There is no way out of `Halted` but construction: after a run has ended, every other move leaves the engine halted, with
the same registers, `EIP`, memory, failure and counters (R228, R236, R254; that `Start` is refused then is D16; that the worker's
move answers the same state is the model's choice, log 14). -/
def Obligations.HaltedIsTerminal : Prop :=
  ∀ s t : State, s.runState = .halted → step s = .next t →
    (∃ m c, s.agenda.head? = some (.construct m c)) ∨
    (t.runState = .halted ∧ t.regs = s.regs ∧ t.eip = s.eip ∧ t.mode = s.mode ∧ t.lookback = s.lookback ∧
      t.fault = s.fault ∧ t.instr = s.instr ∧ t.clock = s.clock ∧ ∀ x, t.mem.read x = s.mem.read x)

/-- How a run ends: when an iteration of the run loop leaves `Halted` set, either HLT has completed (no failure, `Lookback` =
0xF4), or an unsupported opcode was fetched, or the instruction that the bytes at `EIP` decode to makes an access, of 1, 2 or 4
bytes by its own rule, that does not lie in the store, and `Fault` is `MemoryFault` of its address operand (R227, R255; the
exact check is D7, log 8; that no epilogue runs after a failure is D8, log 9; the zero-extension of an address is D18,
log 12). -/
def Obligations.CausesOfTheEndOfARun : Prop :=
  ∀ s t : State, s.Inv → s.halted = false → workerStep s = .next t → t.halted = true →
    (t.orderlyEnd ∧ s.mem.read s.eip.toNat = 0xF4#8 ∧ t.instr = s.instr + 1) ∨
    (t.fault = some (.invalidOpcode (s.mem.read s.eip.toNat)) ∧ supportedOpcode (s.mem.read s.eip.toNat) = false ∧
      t.instr = s.instr ∧ t.lookback = s.lookback ∧ t.regs = s.regs ∧ t.mem = s.mem) ∨
    (∃ i a n, decode s.mode s.width s.window = .instr i ∧ accessOf s.width i = some (a, n) ∧
      Config.memSize < (effective a).toNat + n ∧ t.fault = some (.memoryFault (effective a)) ∧
      t.instr = s.instr ∧ t.lookback = s.lookback ∧ t.regs = s.regs ∧ t.mem = s.mem)

/-! ## The agents -/

/-- When `Halted` is set the loop is not running, and the worker's move changes nothing (R110, R236; that the model answers
the same state, rather than no state, is log 14). -/
def Obligations.HaltedWorkerIdles : Prop := ∀ s : State, s.halted = true → s.agenda = [] → step s = .next s

/-- R253: `Start` in run state `Stopped` clears `Halted`, which makes the run state `Running`, and changes nothing else.
(Which move comes next is the queue of log 13; `started` is log 14.) -/
def Obligations.StartBeginsTheRun : Prop :=
  ∀ (s : State) (rest : List Move), s.agenda = .start :: rest → s.runState = .stopped →
    step s = .next { s with halted := false, started := true, agenda := rest } ∧
    ({ s with halted := false, started := true, agenda := rest } : State).runState = .running

/-- `Stop` sets `Halted` and nothing else, in any run state, and the worker does nothing after it (R225; the spec's decision
D21; the queue is log 13; that the worker's move then answers the same state is the model's choice, log 14). -/
def Obligations.StopSetsHaltedAlone : Prop :=
  ∀ (s : State) (rest : List Move), s.agenda = .stop :: rest →
    step s = .next { s with halted := true, agenda := rest } ∧
    workerStep { s with halted := true, agenda := rest } = .next { s with halted := true, agenda := rest }

/-- The sampler's two reads: each publishes the new total less the old modulo 2^64, republishes the old, and changes nothing
else (R231; modulo 2^64 is D20; one move for each counter is log 16). -/
def Obligations.SamplerPublishesDeltas : Prop :=
  ∀ (s : State) (rest : List Move),
    (s.agenda = .sampleInstr :: rest → ∃ t, step s = .next t ∧
      t = { s with agenda := rest, instrDelta := t.instrDelta, instrOld := s.instr } ∧
      t.instrDelta.toNat = (s.instr.toNat + (2 ^ 64 - s.instrOld.toNat)) % 2 ^ 64) ∧
    (s.agenda = .sampleClock :: rest → ∃ t, step s = .next t ∧
      t = { s with agenda := rest, clockDelta := t.clockDelta, clockOld := s.clock } ∧
      t.clockDelta.toNat = (s.clock.toNat + (2 ^ 64 - s.clockOld.toNat)) % 2 ^ 64)

/-- The loader's move before `Start`: one byte of memory, no `Clock` tick, nothing else (R251, R252; log 13). -/
def Obligations.LoaderWritesOneByte : Prop :=
  ∀ (s : State) (a : Nat) (v : Byte) (rest : List Move), s.mem.wf = true → s.agenda = .load a v :: rest →
    s.started = false → a < Config.memSize →
    ∃ t, step s = .next t ∧ t = { s with agenda := rest, mem := t.mem } ∧ t.mem.read a = v ∧
      ∀ x, x ≠ a → t.mem.read x = s.mem.read x

/-- The host's moves that the spec does not give it are refused by name: `Start` once started, a load once started or at or
beyond `MEM_SIZE` (R252, R254; the spec's decisions D16 and D28; log 13). -/
def Obligations.ForbiddenHostMovesAreRefused : Prop :=
  ∀ (s : State) (rest : List Move),
    (s.agenda = .start :: rest → s.started = true → step s = .refused .startOutsideStopped) ∧
    (∀ a v, s.agenda = .load a v :: rest → s.started = true → step s = .refused .loadOutsideStopped) ∧
    (∀ a v, s.agenda = .load a v :: rest → s.started = false → Config.memSize ≤ a →
      step s = .refused (.loadOutsideStore a))

/-- A host read changes nothing of the engine; when the loop is not running it returns what the observation surface holds. Of
a read during a run nothing is said of the value (R44, R70; the spec's decision D22; log 15). -/
def Obligations.HostReadReturnsFinalValues : Prop :=
  ∀ (s : State) (rest : List Move), s.agenda = .read :: rest →
    ∃ t, step s = .next t ∧ t = { s with agenda := rest, view := t.view, draws := t.draws } ∧
      (s.halted = true → t.view = some
        { eax := s.regs.eax, ebx := s.regs.ebx, ecx := s.regs.ecx, edx := s.regs.edx, eip := s.eip
          instrDelta := s.instrDelta, clockDelta := s.clockDelta })

/-- Construction, from any state of the engine: all registers and `EIP` zero, `Halted` set, run state `Stopped`; the other
values are the spec's decisions D11 and D12 (log 6), the mode is the argument (D10, log 4) (R43, R250, R252). Memory is the
argument `INIT_MEM` (D13) and nothing of the old engine's: in canonical form, each byte of the store the one that the argument
lists last for its address, and 0x00 where it lists none (the model's choice, log 5; a pair outside the store is none, log 13);
a canonical argument is the memory itself. -/
def Obligations.ConstructionGivesResetValues : Prop :=
  ∀ (s : State) (m : Mode) (c : Memory) (rest : List Move), s.agenda = .construct m c :: rest →
    ∃ t, step s = .next t ∧ (∀ r, t.regs.get r = 0) ∧ t.eip = 0 ∧ t.halted = true ∧ t.runState = .stopped ∧
      t.mode = m ∧ t.lookback = 0x00#8 ∧ t.current = 0x00#8 ∧ t.fault = none ∧ t.instr = 0 ∧ t.clock = 0 ∧
      t.instrOld = 0 ∧ t.instrDelta = 0 ∧ t.clockOld = 0 ∧ t.clockDelta = 0 ∧
      t.mem.wf = true ∧ (∀ x, x < Config.memSize → t.mem.read x = (c.reverse.lookup x).getD 0x00#8) ∧
      (c.wf = true → t.mem = c) ∧
      t.agenda = rest ∧ t.draws = s.draws ∧ t.view = s.view

/-! ## Memory -/

/-- Every content of the store is exactly one canonical memory, so a claim about every canonical memory is a claim about every
`INIT_MEM` (R6, R50; that `INIT_MEM` is open is D13; log 5). -/
def Obligations.CanonicalMemoriesAreTheContents : Prop :=
  (∀ f : Nat → Byte, ∃ m : Memory, m.wf = true ∧ ∀ x, x < Config.memSize → m.read x = f x) ∧
  (∀ m n : Memory, m.wf = true → n.wf = true → (∀ x, x < Config.memSize → m.read x = n.read x) → m = n)

/-- R53: `MemRead` of 1, 2 and 4 bytes returns the bytes, the first the least significant, and fails with the operand address
exactly when the access leaves the store. -/
def Obligations.MemReadIsLittleEndianAndChecked : Prop :=
  ∀ (s : State) (a : Word32),
    readByteAt a s = (if Config.memSize < a.toNat + 1 then .error (.memoryFault a) else .ok (s.mem.read a.toNat)) ∧
    readWordAt a s = (if Config.memSize < a.toNat + 2 then .error (.memoryFault a)
      else .ok (BitVec.ofNat 16 (wordAt s.mem a.toNat))) ∧
    readDwordAt a s = (if Config.memSize < a.toNat + 4 then .error (.memoryFault a)
      else .ok (BitVec.ofNat 32 (dwordAt s.mem a.toNat)))

/-- R54: `MemWrite` of 1, 2 and 4 bytes puts bits `8i+7` to `8i` at the address plus `i`, changes no other byte and nothing
else, keeps the canonical form, and fails with the operand address before any byte is written when the access leaves the
store. -/
def Obligations.MemWriteIsLittleEndianAndChecked : Prop :=
  ∀ (s : State) (a : Word32), s.mem.wf = true →
    (∀ v : Byte, if Config.memSize < a.toNat + 1 then writeByteAt a v s = .error (.memoryFault a) else
      ∃ t, writeByteAt a v s = .ok t ∧ t = { s with mem := t.mem } ∧ t.mem.wf = true ∧
        ∀ x, t.mem.read x = if x = a.toNat then v else s.mem.read x) ∧
    (∀ v : Word16, if Config.memSize < a.toNat + 2 then writeWordAt a v s = .error (.memoryFault a) else
      ∃ t, writeWordAt a v s = .ok t ∧ t = { s with mem := t.mem } ∧ t.mem.wf = true ∧
        ∀ x, t.mem.read x = if a.toNat ≤ x ∧ x < a.toNat + 2 then v.extractLsb' (8 * (x - a.toNat)) 8
          else s.mem.read x) ∧
    (∀ v : Word32, if Config.memSize < a.toNat + 4 then writeDwordAt a v s = .error (.memoryFault a) else
      ∃ t, writeDwordAt a v s = .ok t ∧ t = { s with mem := t.mem } ∧ t.mem.wf = true ∧
        ∀ x, t.mem.read x = if a.toNat ≤ x ∧ x < a.toNat + 4 then v.extractLsb' (8 * (x - a.toNat)) 8
          else s.mem.read x)

/-- A value written as a word or dword is read back as written, and narrower reads of a dword see its parts (R52). -/
def Obligations.ReadBackAfterWrite : Prop :=
  ∀ (s t : State) (a : Word32), s.mem.wf = true →
    (∀ v, writeByteAt a v s = .ok t → readByteAt a t = .ok v) ∧
    (∀ v, writeWordAt a v s = .ok t → readWordAt a t = .ok v) ∧
    (∀ v, writeDwordAt a v s = .ok t →
      readDwordAt a t = .ok v ∧ readByteAt a t = .ok (v.extractLsb' 0 8) ∧ readWordAt a t = .ok (v.extractLsb' 0 16) ∧
      readWordAt (a + 2) t = .ok (v.extractLsb' 16 16))

/-- R56: `Fetch` of 1, 2 and 4 bytes returns the bytes from `EIP` on, each at its address modulo `MEM_SIZE` and the first the
least significant, moves `EIP` by as many modulo `MEM_SIZE`, ticks `Clock` once, changes nothing else and never fails. -/
def Obligations.FetchReadsAdvancesAndTicks : Prop :=
  ∀ s : State, s.eip.toNat < Config.memSize →
    (∃ e : Word32, fetchByte s = (s.mem.read s.eip.toNat, { s with eip := e, clock := s.clock + 1 }) ∧
      e.toNat = (s.eip.toNat + 1) % Config.memSize) ∧
    (∃ (e : Word32) (v : Word16), fetchWord s = (v, { s with eip := e, clock := s.clock + 1 }) ∧
      e.toNat = (s.eip.toNat + 2) % Config.memSize ∧
      ∀ k, k < 2 → v.extractLsb' (8 * k) 8 = s.mem.read ((s.eip.toNat + k) % Config.memSize)) ∧
    (∃ (e v : Word32), fetchDword s = (v, { s with eip := e, clock := s.clock + 1 }) ∧
      e.toNat = (s.eip.toNat + 4) % Config.memSize ∧
      ∀ k, k < 4 → v.extractLsb' (8 * k) 8 = s.mem.read ((s.eip.toNat + k) % Config.memSize))

/-! ## Registers and width -/

/-- R24: the views of the four registers are bits 7 to 0, 15 to 8 and 15 to 0 of one 32-bit cell, under the names of the
table. -/
def Obligations.ViewsReadWindowsOfTheRegister : Prop :=
  ∀ g : Regs,
    (g.get8 .al = g.eax.extractLsb' 0 8 ∧ g.get8 .ah = g.eax.extractLsb' 8 8 ∧ g.get16 .eax = g.eax.extractLsb' 0 16 ∧
      g.get .eax = g.eax) ∧
    (g.get8 .cl = g.ecx.extractLsb' 0 8 ∧ g.get8 .ch = g.ecx.extractLsb' 8 8 ∧ g.get16 .ecx = g.ecx.extractLsb' 0 16 ∧
      g.get .ecx = g.ecx) ∧
    (g.get8 .dl = g.edx.extractLsb' 0 8 ∧ g.get8 .dh = g.edx.extractLsb' 8 8 ∧ g.get16 .edx = g.edx.extractLsb' 0 16 ∧
      g.get .edx = g.edx) ∧
    (g.get8 .bl = g.ebx.extractLsb' 0 8 ∧ g.get8 .bh = g.ebx.extractLsb' 8 8 ∧ g.get16 .ebx = g.ebx.extractLsb' 0 16 ∧
      g.get .ebx = g.ebx)

/-- R25: a write of a view puts the value there, bit for bit, and changes no other bit of any register; a full write replaces
the register and no other. -/
def Obligations.ViewWritesKeepTheOtherBits : Prop :=
  (∀ (s : State) (d : Reg8) (v : Byte), (s.setReg8 d v).regs.get8 d = v ∧ OnlyReg8 d s (s.setReg8 d v)) ∧
  (∀ (s : State) (r : Gpr) (v : Word16), WritesWord r v s (s.setGpr16 r v)) ∧
  (∀ (s : State) (r : Gpr) (v : Word32), WritesDword r v s (s.setGpr r v))

/-- W by the truth table of `Mode` and of whether `Lookback` is 0x66, and the opcodes that do not use W (R114): no other opcode
reads `Lookback`, neither in decoding nor in its effect; and none reads `Mode` but through W, except 0xA0 (R30, R181), of which
`LoadAlFromAddress` says what it reads it for. That 0x8B does not read `Mode` for its address is the spec's decision D4, log 1,
and that 0xA1 reads it only through W is D5, log 3. -/
def Obligations.OperandWidthByModeAndOverride : Prop :=
  (∀ s : State,
    (s.mode = .bits16 → s.lookback ≠ 0x66#8 → s.width = .w16) ∧
    (s.mode = .bits16 → s.lookback = 0x66#8 → s.width = .w32) ∧
    (s.mode = .bits32 → s.lookback ≠ 0x66#8 → s.width = .w32) ∧
    (s.mode = .bits32 → s.lookback = 0x66#8 → s.width = .w16)) ∧
  (∀ (m : Mode) (w w' : Width) (b : Window), usesWidth b.b0 = false → decode m w b = decode m w' b) ∧
  (∀ (m m' : Mode) (w : Width) (b : Window), b.b0 ≠ 0xA0#8 → decode m w b = decode m' w b) ∧
  (∀ (i : Instr) (s : State) (x : Byte), usesWidth i.opcode = false →
    exec i { s with lookback := x } =
      onNext (fun t => if t.instr = s.instr + 1 then t else { t with lookback := x }) (exec i s)) ∧
  (∀ (i : Instr) (s : State) (m : Mode), usesWidth i.opcode = false →
    exec i { s with mode := m } = onNext (fun t => { t with mode := m }) (exec i s))

/-! ## Increments -/

/-- R131 to R134: INC AX/EAX, CX/ECX, DX/EDX, BX/EBX (the bytes 0x40 to 0x43) complete in every state. With W = 16 the low
word is the old one plus 1 modulo 2^16 and bits 31 to 16 are unchanged; with W = 32 the register is the old one plus 1 modulo
2^32. No other register, no byte of memory and nothing else changes but the epilogue's three updates. That the increment wraps
and records nothing is the spec's decision D6 (R130), log 7. -/
def Obligations.IncRegisterByWidth : Prop :=
  ∀ op i r, (op, i, r) ∈ incRows →
    Dispatches anyState op [] 1 i ∧
    ∀ s, ∃ t, exec i s = .next t ∧ RetiresRegs s t ∧
      (s.width = .w16 → WritesWord r (BitVec.ofNat 16 (((s.regs.get r).extractLsb' 0 16).toNat + 1)) s t) ∧
      (s.width = .w32 → WritesDword r (BitVec.ofNat 32 ((s.regs.get r).toNat + 1)) s t)

/-- R138 to R145: INC AL, CL, DL, BL, AH, CH, DH, BH (0xFE and the second bytes 0xC0 to 0xC7, which are decision D1, log 1)
complete in every state: the view is the old one plus 1 modulo 2^8 (the wrap is D6, log 7), every other bit of every
register is unchanged. -/
def Obligations.IncByteRegister : Prop :=
  ∀ sb i r, (sb, i, r) ∈ incReg8Rows →
    Dispatches anyState 0xFE#8 [sb] 2 i ∧
    ∀ s, ∃ t, exec i s = .next t ∧ RetiresRegs s t ∧ OnlyReg8 r s t ∧
      t.regs.get8 r = BitVec.ofNat 8 ((s.regs.get8 r).toNat + 1)

/-- R136: INC BYTE [addr16] (0xFE, second byte 0x06 by decision D1, log 1) completes in every state: the byte at the
zero-extended address (D18, log 12) is the old one plus 1 modulo 2^8 (the wrap is D6, log 7), no other byte and no register
changes. -/
def Obligations.IncByteAtAddr16 : Prop :=
  ∀ a : Word16,
    Dispatches anyState 0xFE#8 [0x06, a.extractLsb' 0 8, a.extractLsb' 8 8] 3 (.incByteA16 a) ∧
    (effective (.a16 a)).toNat = a.toNat ∧
    ∀ s, s.mem.wf = true → ∃ t, exec (.incByteA16 a) s = .next t ∧ RetiresStore (effective (.a16 a)) 1 s t ∧
      t.mem.read a.toNat = BitVec.ofNat 8 ((s.mem.read a.toNat).toNat + 1)

/-- R137: INC BYTE [addr32] (0xFE, second byte 0x05 by decision D1, log 1) completes when the address is below `MEM_SIZE`,
as R136 (the wrap is D6, log 7); at or beyond it, it takes `MemoryFault` of the address before anything is written (D7, D8;
logs 8 and 9). -/
def Obligations.IncByteAtAddr32 : Prop :=
  ∀ a : Word32,
    Dispatches anyState 0xFE#8
      [0x05, a.extractLsb' 0 8, a.extractLsb' 8 8, a.extractLsb' 16 8, a.extractLsb' 24 8] 3 (.incByteA32 a) ∧
    effective (.a32 a) = a ∧
    (a.toNat < Config.memSize → ∀ s, s.mem.wf = true → ∃ t, exec (.incByteA32 a) s = .next t ∧
      RetiresStore (effective (.a32 a)) 1 s t ∧
      t.mem.read a.toNat = BitVec.ofNat 8 ((s.mem.read a.toNat).toNat + 1)) ∧
    (Config.memSize ≤ a.toNat → ∀ s, ∃ t, exec (.incByteA32 a) s = .next t ∧ Faults a s t)

/-- R147: INC WORD/DWORD [addr16] (0xFF, second byte 0x06 by decision D1, log 1) completes in every state: the word (W = 16)
or dword (W = 32) at the zero-extended address (D18, log 12), little-endian, is the old one plus 1 modulo 2^16 or 2^32; a
carry crosses the bytes of the operand and no others (the wrap is D6, log 7). -/
def Obligations.IncWordAtAddr16 : Prop :=
  ∀ a : Word16,
    Dispatches anyState 0xFF#8 [0x06, a.extractLsb' 0 8, a.extractLsb' 8 8] 3 (.incWordA16 a) ∧
    (effective (.a16 a)).toNat = a.toNat ∧
    ∀ s, s.mem.wf = true → ∃ t, exec (.incWordA16 a) s = .next t ∧
      (s.width = .w16 → RetiresStore (effective (.a16 a)) 2 s t ∧
        wordAt t.mem a.toNat = (wordAt s.mem a.toNat + 1) % 2 ^ 16) ∧
      (s.width = .w32 → RetiresStore (effective (.a16 a)) 4 s t ∧
        dwordAt t.mem a.toNat = (dwordAt s.mem a.toNat + 1) % 2 ^ 32)

/-- R148: INC WORD/DWORD [addr32] (0xFF, second byte 0x05 by decision D1, log 1) completes when all its bytes lie in the
store, as R147 (the wrap is D6, log 7); otherwise, a straddling access included, it takes `MemoryFault` of the operand
address before anything is written (D7, D8; logs 8 and 9). -/
def Obligations.IncWordAtAddr32 : Prop :=
  ∀ a : Word32,
    Dispatches anyState 0xFF#8
      [0x05, a.extractLsb' 0 8, a.extractLsb' 8 8, a.extractLsb' 16 8, a.extractLsb' 24 8] 3 (.incWordA32 a) ∧
    effective (.a32 a) = a ∧
    (∀ s, s.width = .w16 → a.toNat + 2 ≤ Config.memSize → s.mem.wf = true →
      ∃ t, exec (.incWordA32 a) s = .next t ∧ RetiresStore (effective (.a32 a)) 2 s t ∧
        wordAt t.mem a.toNat = (wordAt s.mem a.toNat + 1) % 2 ^ 16) ∧
    (∀ s, s.width = .w32 → a.toNat + 4 ≤ Config.memSize → s.mem.wf = true →
      ∃ t, exec (.incWordA32 a) s = .next t ∧ RetiresStore (effective (.a32 a)) 4 s t ∧
        dwordAt t.mem a.toNat = (dwordAt s.mem a.toNat + 1) % 2 ^ 32) ∧
    (∀ s, s.width = .w16 → Config.memSize < a.toNat + 2 →
      ∃ t, exec (.incWordA32 a) s = .next t ∧ Faults a s t) ∧
    (∀ s, s.width = .w32 → Config.memSize < a.toNat + 4 →
      ∃ t, exec (.incWordA32 a) s = .next t ∧ Faults a s t)

/-! ## Moves -/

/-- R162 to R168: the 49 moves between 8-bit registers (0x88; second bytes by decision D1, DH absent by D3, log 1) complete in
every state: the destination view is the source view as it was, every other bit of every register is unchanged. -/
def Obligations.MoveByteRegister : Prop :=
  ∀ sb i d src, (sb, i, d, src) ∈ movReg8Rows →
    Dispatches anyState 0x88#8 [sb] 2 i ∧
    ∀ s, ∃ t, exec i s = .next t ∧ RetiresRegs s t ∧ OnlyReg8 d s t ∧ t.regs.get8 d = s.regs.get8 src

/-- R170 to R176: MOV r8, [addr] to CL, DL, BL, AH, CH, DH, BH (0x8A; second bytes by decision D1, log 1). The 16-bit address
form completes in every state, the 32-bit form when the address is below `MEM_SIZE`: the destination view is the byte there,
every other bit unchanged. At or beyond it, `MemoryFault` before the register is written (D7, D8; logs 8 and 9). -/
def Obligations.LoadByteRegister : Prop :=
  ∀ sb16 sb32 i16 i32 d, (sb16, sb32, i16, i32, d) ∈ loadReg8Rows →
    (∀ a : Word16, Dispatches anyState 0x8A#8 [sb16, a.extractLsb' 0 8, a.extractLsb' 8 8] 3 (i16 a) ∧
      ∀ s, ∃ t, exec (i16 a) s = .next t ∧ RetiresRegs s t ∧ OnlyReg8 d s t ∧ t.regs.get8 d = s.mem.read a.toNat) ∧
    (∀ a : Word32, Dispatches anyState 0x8A#8
        [sb32, a.extractLsb' 0 8, a.extractLsb' 8 8, a.extractLsb' 16 8, a.extractLsb' 24 8] 3 (i32 a) ∧
      (a.toNat < Config.memSize → ∀ s, ∃ t, exec (i32 a) s = .next t ∧ RetiresRegs s t ∧ OnlyReg8 d s t ∧
        t.regs.get8 d = s.mem.read a.toNat) ∧
      (Config.memSize ≤ a.toNat → ∀ s, ∃ t, exec (i32 a) s = .next t ∧ Faults a s t))

/-- R178 to R180: MOV r16/r32, [addr] to CX/ECX, DX/EDX, BX/EBX (0x8B; second bytes by decision D1, address width by D4,
log 1). With W = 16 the low word is the word there and bits 31 to 16 are unchanged; with W = 32 the register is the dword
there. Outside the store, `MemoryFault` before the register is written (D7, D8; logs 8 and 9). -/
def Obligations.LoadRegisterByWidth : Prop :=
  ∀ sb16 sb32 i16 i32 r, (sb16, sb32, i16, i32, r) ∈ loadGprRows →
    (∀ a : Word16, Dispatches anyState 0x8B#8 [sb16, a.extractLsb' 0 8, a.extractLsb' 8 8] 3 (i16 a) ∧
      ∀ s, ∃ t, exec (i16 a) s = .next t ∧ RetiresRegs s t ∧
        (s.width = .w16 → WritesWord r (BitVec.ofNat 16 (wordAt s.mem a.toNat)) s t) ∧
        (s.width = .w32 → WritesDword r (BitVec.ofNat 32 (dwordAt s.mem a.toNat)) s t)) ∧
    (∀ a : Word32, Dispatches anyState 0x8B#8
        [sb32, a.extractLsb' 0 8, a.extractLsb' 8 8, a.extractLsb' 16 8, a.extractLsb' 24 8] 3 (i32 a) ∧
      (∀ s, s.width = .w16 → a.toNat + 2 ≤ Config.memSize → ∃ t, exec (i32 a) s = .next t ∧ RetiresRegs s t ∧
        WritesWord r (BitVec.ofNat 16 (wordAt s.mem a.toNat)) s t) ∧
      (∀ s, s.width = .w32 → a.toNat + 4 ≤ Config.memSize → ∃ t, exec (i32 a) s = .next t ∧ RetiresRegs s t ∧
        WritesDword r (BitVec.ofNat 32 (dwordAt s.mem a.toNat)) s t) ∧
      (∀ s, s.width = .w16 → Config.memSize < a.toNat + 2 → ∃ t, exec (i32 a) s = .next t ∧ Faults a s t) ∧
      (∀ s, s.width = .w32 → Config.memSize < a.toNat + 4 → ∃ t, exec (i32 a) s = .next t ∧ Faults a s t))

/-- R181: MOV AL, [addr] (0xA0): the address has 16 bits when `Mode` = `Bits16` and 32 bits when `Mode` = `Bits32`, whatever
`Lookback` holds. It completes when the address is below `MEM_SIZE`, which a 16-bit address always is: AL is the byte there,
every other bit unchanged. At or beyond it, `MemoryFault` before AL is written. -/
def Obligations.LoadAlFromAddress : Prop :=
  (∀ a : Word16, Dispatches (fun s => s.mode = .bits16) 0xA0#8 [a.extractLsb' 0 8, a.extractLsb' 8 8] 2
      (.movAlAddr (.a16 a)) ∧
    ∀ s, ∃ t, exec (.movAlAddr (.a16 a)) s = .next t ∧ RetiresRegs s t ∧ OnlyReg8 .al s t ∧
      t.regs.get8 .al = s.mem.read a.toNat) ∧
  (∀ a : Word32, Dispatches (fun s => s.mode = .bits32) 0xA0#8
      [a.extractLsb' 0 8, a.extractLsb' 8 8, a.extractLsb' 16 8, a.extractLsb' 24 8] 2 (.movAlAddr (.a32 a)) ∧
    (a.toNat < Config.memSize → ∀ s, ∃ t, exec (.movAlAddr (.a32 a)) s = .next t ∧ RetiresRegs s t ∧ OnlyReg8 .al s t ∧
      t.regs.get8 .al = s.mem.read a.toNat) ∧
    (Config.memSize ≤ a.toNat → ∀ s, ∃ t, exec (.movAlAddr (.a32 a)) s = .next t ∧ Faults a s t))

/-- R182: MOV AX/EAX, [addr] (0xA1): the address has the operand width W (the spec's decision D5, log 3). With W = 16 it
completes and AX is the word there, EAX's bits 31 to 16 unchanged; with W = 32 it completes when the four bytes lie in the
store and EAX is the dword there; otherwise `MemoryFault` before EAX is written (D7, D8; logs 8 and 9). -/
def Obligations.LoadAccumulatorByWidth : Prop :=
  (∀ a : Word16, Dispatches (fun s => s.width = .w16) 0xA1#8 [a.extractLsb' 0 8, a.extractLsb' 8 8] 2
      (.movAxAddr (.a16 a)) ∧
    ∀ s, s.width = .w16 → ∃ t, exec (.movAxAddr (.a16 a)) s = .next t ∧ RetiresRegs s t ∧
      WritesWord .eax (BitVec.ofNat 16 (wordAt s.mem a.toNat)) s t) ∧
  (∀ a : Word32, Dispatches (fun s => s.width = .w32) 0xA1#8
      [a.extractLsb' 0 8, a.extractLsb' 8 8, a.extractLsb' 16 8, a.extractLsb' 24 8] 2 (.movAxAddr (.a32 a)) ∧
    (∀ s, s.width = .w32 → a.toNat + 4 ≤ Config.memSize → ∃ t, exec (.movAxAddr (.a32 a)) s = .next t ∧
      RetiresRegs s t ∧ WritesDword .eax (BitVec.ofNat 32 (dwordAt s.mem a.toNat)) s t) ∧
    (∀ s, s.width = .w32 → Config.memSize < a.toNat + 4 → ∃ t, exec (.movAxAddr (.a32 a)) s = .next t ∧ Faults a s t))

/-- R183 to R190: MOV r8, imm8 (0xB0 to 0xB7) completes in every state: the view AL, CL, DL, BL, AH, CH, DH, BH is the
immediate byte, every other bit of every register is unchanged. -/
def Obligations.MoveImmediateByte : Prop :=
  ∀ op c d, (op, c, d) ∈ movImm8Rows → ∀ v : Byte,
    Dispatches anyState op [v] 2 (c v) ∧
    ∀ s, ∃ t, exec (c v) s = .next t ∧ RetiresRegs s t ∧ OnlyReg8 d s t ∧ t.regs.get8 d = v

/-- R191 to R195: MOV r16/r32, imm (0xB8 to 0xBB) completes in every state. With W = 16 two bytes follow the opcode and are the
new low word, bits 31 to 16 unchanged; with W = 32 four bytes follow and are the new register. No other register changes. That
`exec` follows the immediate's own width, in a state of either W, is the model's choice, log 22; in a step the two are equal, as
the first clauses say. That an immediate may stand across the end of the store is D9, log 10. -/
def Obligations.MoveImmediateByWidth : Prop :=
  ∀ op c r, (op, c, r) ∈ movImmRows →
    (∀ v : Word16, Dispatches (fun s => s.width = .w16) op [v.extractLsb' 0 8, v.extractLsb' 8 8] 2 (c (.i16 v)) ∧
      ∀ s, ∃ t, exec (c (.i16 v)) s = .next t ∧ RetiresRegs s t ∧ WritesWord r v s t) ∧
    (∀ v : Word32, Dispatches (fun s => s.width = .w32) op
        [v.extractLsb' 0 8, v.extractLsb' 8 8, v.extractLsb' 16 8, v.extractLsb' 24 8] 2 (c (.i32 v)) ∧
      ∀ s, ∃ t, exec (c (.i32 v)) s = .next t ∧ RetiresRegs s t ∧ WritesDword r v s t)

/-! ## Control -/

/-- R116: the operand-size override (0x66) completes in every state and does nothing but be recorded: only the epilogue's
three updates. -/
def Obligations.OverrideIsOnlyRecorded : Prop :=
  Dispatches anyState 0x66#8 [] 1 .opsize ∧
  ∀ s, ∃ t, exec .opsize s = .next t ∧ RetiresRegs s t ∧ t.regs = s.regs ∧
    (s.current = 0x66#8 → t.lookback = 0x66#8)

/-- R210: NOP (0x90) completes in every state, with only the epilogue's three updates. (Its delay is timing and is left out,
log 17.) -/
def Obligations.NopOnlyRetires : Prop :=
  Dispatches anyState 0x90#8 [] 1 .nop ∧
  ∀ s, ∃ t, exec .nop s = .next t ∧ RetiresRegs s t ∧ t.regs = s.regs

/-- R211: JMP rel8 (0xEB) completes in every state: the new `EIP` is (`EIP` after the operand + rel8 + 1) mod 256, so below
256, and the operand read as signed gives the same; for a JMP whose opcode byte stands at `a` it is (`a` + 3 + rel8) mod 256.
Nothing else changes but the epilogue's three updates. -/
def Obligations.JumpTargetIsModulo256 : Prop :=
  ∀ v : Byte, Dispatches anyState 0xEB#8 [v] 2 (.jmpRel8 v) ∧
    (∀ s, ∃ t, exec (.jmpRel8 v) s = .next t ∧
      t = { s with eip := t.eip, lookback := s.current, instr := s.instr + 1, clock := s.clock + 1 } ∧
      t.eip.toNat = (s.eip.toNat + v.toNat + 1) % 256 ∧ (t.eip.toNat : Int) = (s.eip.toNat + v.toInt + 1) % 256 ∧
      ∀ x, t.mem.read x = s.mem.read x) ∧
    (∀ s, WorkerNext s → BytesAtEip s [0xEB, v] →
      ∃ t, step s = .next t ∧ t.eip.toNat = (s.eip.toNat + 3 + v.toNat) % 256)

/-- R212: HLT (0xF4) completes in every state: `Halted` is set and the HLT is counted, nothing else changes, and the worker
does nothing after it (R110; that its move then answers the same state is the model's choice, log 14). -/
def Obligations.HaltIsCountedAndEndsTheLoop : Prop :=
  Dispatches anyState 0xF4#8 [] 1 .hlt ∧
  ∀ s, ∃ t, exec .hlt s = .next t ∧
    t = { s with halted := true, lookback := s.current, instr := s.instr + 1, clock := s.clock + 1 } ∧
    (∀ x, t.mem.read x = s.mem.read x) ∧ workerStep t = .next t
end

