-- ==== Sys2Proof/Laws/Memory.lean ====
section
/-!
SUPPORT. The laws of the byte store (spec/20_memory.md R50, R52): read after write, every write keeps the canonical form,
and canonical memories with the same bytes are the same memory.
-/

namespace Sys2Proof.Machine

@[simp] theorem Memory.read_nil (x : Nat) : Memory.read [] x = Memory.unlisted := rfl

@[simp] theorem Memory.read_cons (a x : Nat) (b : Byte) (m : Memory) :
    Memory.read ((a, b) :: m) x = if x = a then b else Memory.read m x := rfl

@[simp] theorem Memory.wf_nil : Memory.wf [] = true := rfl

/-- The canonical form of a memory with a first entry. -/
theorem Memory.wf_cons {a : Nat} {b : Byte} {m : Memory} :
    Memory.wf ((a, b) :: m) = true ↔
      a < Config.memSize ∧ b ≠ Memory.unlisted ∧ (∀ c ∈ m, a < c.1) ∧ Memory.wf m = true := by
  simp only [Memory.wf, Bool.and_eq_true, decide_eq_true_eq, List.all_eq_true, and_assoc]

/-- Below the first entry nothing is listed. -/
theorem Memory.read_below {m : Memory} {x : Nat} (h : ∀ c ∈ m, x < c.1) : m.read x = Memory.unlisted := by
  induction m with
  | nil => rfl
  | cons c m ih =>
    obtain ⟨a, b⟩ := c
    have hx : x < a := h (a, b) (by simp)
    rw [Memory.read_cons, if_neg (by omega)]
    exact ih fun c hc => h c (by simp [hc])

/-- An entry of a memory after a write is an old one or the one written. -/
theorem Memory.mem_write {m : Memory} {x : Nat} {v : Byte} {c : Host.Cell} (h : c ∈ m.write x v) :
    c ∈ m ∨ c.1 = x := by
  induction m with
  | nil =>
    unfold Memory.write at h
    split at h <;> simp_all
  | cons d m ih =>
    obtain ⟨a, b⟩ := d
    unfold Memory.write at h
    split_ifs at h <;> simp only [List.mem_cons] at h ⊢
    · exact .inl h
    · rcases h with rfl | h
      · exact .inr rfl
      · exact .inl h
    · exact .inl (.inr h)
    · rcases h with rfl | h
      · exact .inr rfl
      · exact .inl (.inr h)
    · rcases h with rfl | h
      · exact .inl (.inl rfl)
      · rcases ih h with h | h
        · exact .inl (.inr h)
        · exact .inr h

/-- A write inside the store keeps the canonical form. -/
theorem Memory.write_wf {m : Memory} {x : Nat} {v : Byte} (h : m.wf = true) (hx : x < Config.memSize) :
    (m.write x v).wf = true := by
  induction m with
  | nil =>
    unfold Memory.write
    split_ifs with hv
    · rfl
    · exact Memory.wf_cons.mpr ⟨hx, hv, by simp, rfl⟩
  | cons c m ih =>
    obtain ⟨a, b⟩ := c
    obtain ⟨ha, hb, hall, hm⟩ := Memory.wf_cons.mp h
    unfold Memory.write
    split_ifs with hlt hv heq hv
    · exact h
    · refine Memory.wf_cons.mpr ⟨hx, hv, ?_, h⟩
      rintro c hc
      rcases List.mem_cons.mp hc with rfl | hc
      · exact hlt
      · exact hlt.trans (hall c hc)
    · exact hm
    · exact Memory.wf_cons.mpr ⟨hx, hv, heq ▸ hall, hm⟩
    · refine Memory.wf_cons.mpr ⟨ha, hb, ?_, ih hm⟩
      rintro c hc
      rcases Memory.mem_write hc with hc | hc
      · exact hall c hc
      · omega

/-- A write leaves every other address alone. -/
theorem Memory.read_write_other {m : Memory} {x y : Nat} {v : Byte} (h : y ≠ x) :
    (m.write x v).read y = m.read y := by
  induction m with
  | nil =>
    unfold Memory.write
    split_ifs <;> simp [h]
  | cons c m ih =>
    obtain ⟨a, b⟩ := c
    unfold Memory.write
    split_ifs with _ _ heq
    · rfl
    · simp [h]
    · rw [Memory.read_cons, if_neg (by omega)]
    · rw [Memory.read_cons, if_neg h, Memory.read_cons, if_neg (by omega)]
    · simp only [Memory.read_cons, ih]

/-- A read after a write to the same address gives the byte written. -/
theorem Memory.read_write_same {m : Memory} {x : Nat} {v : Byte} (h : m.wf = true) : (m.write x v).read x = v := by
  induction m with
  | nil =>
    unfold Memory.write
    split_ifs with hv <;> simp [hv]
  | cons c m ih =>
    obtain ⟨a, b⟩ := c
    obtain ⟨_, _, hall, hm⟩ := Memory.wf_cons.mp h
    unfold Memory.write
    split_ifs with hlt hv heq hv
    · rw [hv]
      refine Memory.read_below fun c hc => ?_
      rcases List.mem_cons.mp hc with rfl | hc
      · exact hlt
      · exact hlt.trans (hall c hc)
    · simp
    · rw [hv]
      exact Memory.read_below (heq ▸ hall)
    · simp
    · rw [Memory.read_cons, if_neg heq]
      exact ih hm

/-- Reading any address after a write. -/
theorem Memory.read_write {m : Memory} (h : m.wf = true) (x y : Nat) (v : Byte) :
    (m.write x v).read y = if y = x then v else m.read y := by
  split_ifs with hy
  · rw [hy, Memory.read_write_same h]
  · exact Memory.read_write_other hy

/-- The memory made of any list of pairs is canonical. -/
theorem Memory.ofCells_wf (cells : List Host.Cell) : (Memory.ofCells cells).wf = true := by
  suffices h : ∀ (l : List Host.Cell) (m : Memory), m.wf = true →
      (l.foldl (fun m c => if c.1 < Config.memSize then m.write c.1 c.2 else m) m).wf = true from h cells [] rfl
  intro l
  induction l with
  | nil => exact fun _ h => h
  | cons c l ih =>
    intro m h
    refine ih _ ?_
    show (if c.1 < Config.memSize then m.write c.1 c.2 else m).wf = true
    split_ifs with hc
    · exact Memory.write_wf h hc
    · exact h

/-- What the memory made of a list of pairs holds inside the store: at each address the last pair given for it, and the
unlisted byte where there is none. -/
theorem Memory.ofCells_read (cells : List Host.Cell) {x : Nat} (hx : x < Config.memSize) :
    (Memory.ofCells cells).read x = (cells.reverse.lookup x).getD Memory.unlisted := by
  induction cells using List.reverseRecOn with
  | nil => rfl
  | append_singleton l c ih =>
    obtain ⟨a, b⟩ := c
    have hstep : Memory.ofCells (l ++ [(a, b)]) =
        if a < Config.memSize then (Memory.ofCells l).write a b else Memory.ofCells l := by
      simp [Memory.ofCells]
    rw [hstep, List.reverse_append, List.reverse_singleton, List.singleton_append, List.lookup_cons]
    by_cases hxa : x = a
    · subst hxa
      rw [if_pos hx, Memory.read_write_same (Memory.ofCells_wf l)]
      simp
    · rw [beq_false_of_ne hxa]
      split_ifs
      · rw [Memory.read_write_other hxa, ih]
      · exact ih

/-- Reading the first listed address of a canonical memory never gives the unlisted byte. -/
theorem Memory.eq_nil_of_unlisted {m : Memory} (h : m.wf = true) (hr : ∀ x, m.read x = Memory.unlisted) : m = [] := by
  cases m with
  | nil => rfl
  | cons c m =>
    obtain ⟨a, b⟩ := c
    have := hr a
    rw [Memory.read_cons, if_pos rfl] at this
    exact absurd this (Memory.wf_cons.mp h).2.1

/-- Canonical memories with the same bytes are the same memory. -/
theorem Memory.ext_of_wf {m n : Memory} (hm : m.wf = true) (hn : n.wf = true) (h : ∀ x, m.read x = n.read x) :
    m = n := by
  induction m generalizing n with
  | nil => exact (Memory.eq_nil_of_unlisted hn fun x => (h x).symm).symm
  | cons c m ih =>
    cases n with
    | nil => exact Memory.eq_nil_of_unlisted hm h
    | cons d n =>
      obtain ⟨a, b⟩ := c
      obtain ⟨e, f⟩ := d
      obtain ⟨_, hb, hma, hmw⟩ := Memory.wf_cons.mp hm
      obtain ⟨_, hf, hna, hnw⟩ := Memory.wf_cons.mp hn
      have key : a = e := by
        rcases Nat.lt_trichotomy a e with hlt | heq | hgt
        · have := h a
          rw [Memory.read_cons, if_pos rfl, Memory.read_cons, if_neg (by omega),
            Memory.read_below fun c hc => hlt.trans (hna c hc)] at this
          exact absurd this hb
        · exact heq
        · have := h e
          rw [Memory.read_cons, if_neg (by omega), Memory.read_below fun c hc => Nat.lt_trans hgt (hma c hc),
            Memory.read_cons, if_pos rfl] at this
          exact absurd this.symm hf
      subst key
      have hbf : b = f := by simpa using h a
      subst hbf
      refine congrArg _ (ih hmw hnw fun x => ?_)
      by_cases hx : x = a
      · rw [hx, Memory.read_below hma, Memory.read_below hna]
      · simpa [hx] using h x

end Sys2Proof.Machine
end

