-- ==== Sys2Proof/Laws/State.lean ====
section
/-!
SUPPORT. The state's small lemmas: one for each field of each update, true by rfl, so that no later proof unfolds a record
update; and the values after construction.
-/

namespace Sys2Proof.Machine

variable (s : State)

/-! ### setGpr -/

@[simp] theorem setGpr_regs (r : Gpr) (v : Word32) : (s.setGpr r v).regs = s.regs.set r v := rfl
@[simp] theorem setGpr_eip (r : Gpr) (v : Word32) : (s.setGpr r v).eip = s.eip := rfl
@[simp] theorem setGpr_mode (r : Gpr) (v : Word32) : (s.setGpr r v).mode = s.mode := rfl
@[simp] theorem setGpr_lookback (r : Gpr) (v : Word32) : (s.setGpr r v).lookback = s.lookback := rfl
@[simp] theorem setGpr_current (r : Gpr) (v : Word32) : (s.setGpr r v).current = s.current := rfl
@[simp] theorem setGpr_halted (r : Gpr) (v : Word32) : (s.setGpr r v).halted = s.halted := rfl
@[simp] theorem setGpr_started (r : Gpr) (v : Word32) : (s.setGpr r v).started = s.started := rfl
@[simp] theorem setGpr_fault (r : Gpr) (v : Word32) : (s.setGpr r v).fault = s.fault := rfl
@[simp] theorem setGpr_instr (r : Gpr) (v : Word32) : (s.setGpr r v).instr = s.instr := rfl
@[simp] theorem setGpr_clock (r : Gpr) (v : Word32) : (s.setGpr r v).clock = s.clock := rfl
@[simp] theorem setGpr_instrOld (r : Gpr) (v : Word32) : (s.setGpr r v).instrOld = s.instrOld := rfl
@[simp] theorem setGpr_instrDelta (r : Gpr) (v : Word32) : (s.setGpr r v).instrDelta = s.instrDelta := rfl
@[simp] theorem setGpr_clockOld (r : Gpr) (v : Word32) : (s.setGpr r v).clockOld = s.clockOld := rfl
@[simp] theorem setGpr_clockDelta (r : Gpr) (v : Word32) : (s.setGpr r v).clockDelta = s.clockDelta := rfl
@[simp] theorem setGpr_mem (r : Gpr) (v : Word32) : (s.setGpr r v).mem = s.mem := rfl
@[simp] theorem setGpr_agenda (r : Gpr) (v : Word32) : (s.setGpr r v).agenda = s.agenda := rfl
@[simp] theorem setGpr_draws (r : Gpr) (v : Word32) : (s.setGpr r v).draws = s.draws := rfl
@[simp] theorem setGpr_view (r : Gpr) (v : Word32) : (s.setGpr r v).view = s.view := rfl
@[simp] theorem setGpr_width (r : Gpr) (v : Word32) : (s.setGpr r v).width = s.width := rfl

/-! ### setGpr16 -/

@[simp] theorem setGpr16_regs (r : Gpr) (v : Word16) : (s.setGpr16 r v).regs = s.regs.set16 r v := rfl
@[simp] theorem setGpr16_eip (r : Gpr) (v : Word16) : (s.setGpr16 r v).eip = s.eip := rfl
@[simp] theorem setGpr16_mode (r : Gpr) (v : Word16) : (s.setGpr16 r v).mode = s.mode := rfl
@[simp] theorem setGpr16_lookback (r : Gpr) (v : Word16) : (s.setGpr16 r v).lookback = s.lookback := rfl
@[simp] theorem setGpr16_current (r : Gpr) (v : Word16) : (s.setGpr16 r v).current = s.current := rfl
@[simp] theorem setGpr16_halted (r : Gpr) (v : Word16) : (s.setGpr16 r v).halted = s.halted := rfl
@[simp] theorem setGpr16_started (r : Gpr) (v : Word16) : (s.setGpr16 r v).started = s.started := rfl
@[simp] theorem setGpr16_fault (r : Gpr) (v : Word16) : (s.setGpr16 r v).fault = s.fault := rfl
@[simp] theorem setGpr16_instr (r : Gpr) (v : Word16) : (s.setGpr16 r v).instr = s.instr := rfl
@[simp] theorem setGpr16_clock (r : Gpr) (v : Word16) : (s.setGpr16 r v).clock = s.clock := rfl
@[simp] theorem setGpr16_instrOld (r : Gpr) (v : Word16) : (s.setGpr16 r v).instrOld = s.instrOld := rfl
@[simp] theorem setGpr16_instrDelta (r : Gpr) (v : Word16) : (s.setGpr16 r v).instrDelta = s.instrDelta := rfl
@[simp] theorem setGpr16_clockOld (r : Gpr) (v : Word16) : (s.setGpr16 r v).clockOld = s.clockOld := rfl
@[simp] theorem setGpr16_clockDelta (r : Gpr) (v : Word16) : (s.setGpr16 r v).clockDelta = s.clockDelta := rfl
@[simp] theorem setGpr16_mem (r : Gpr) (v : Word16) : (s.setGpr16 r v).mem = s.mem := rfl
@[simp] theorem setGpr16_agenda (r : Gpr) (v : Word16) : (s.setGpr16 r v).agenda = s.agenda := rfl
@[simp] theorem setGpr16_draws (r : Gpr) (v : Word16) : (s.setGpr16 r v).draws = s.draws := rfl
@[simp] theorem setGpr16_view (r : Gpr) (v : Word16) : (s.setGpr16 r v).view = s.view := rfl
@[simp] theorem setGpr16_width (r : Gpr) (v : Word16) : (s.setGpr16 r v).width = s.width := rfl

/-! ### setReg8 -/

@[simp] theorem setReg8_regs (r : Reg8) (v : Byte) : (s.setReg8 r v).regs = s.regs.set8 r v := rfl
@[simp] theorem setReg8_eip (r : Reg8) (v : Byte) : (s.setReg8 r v).eip = s.eip := rfl
@[simp] theorem setReg8_mode (r : Reg8) (v : Byte) : (s.setReg8 r v).mode = s.mode := rfl
@[simp] theorem setReg8_lookback (r : Reg8) (v : Byte) : (s.setReg8 r v).lookback = s.lookback := rfl
@[simp] theorem setReg8_current (r : Reg8) (v : Byte) : (s.setReg8 r v).current = s.current := rfl
@[simp] theorem setReg8_halted (r : Reg8) (v : Byte) : (s.setReg8 r v).halted = s.halted := rfl
@[simp] theorem setReg8_started (r : Reg8) (v : Byte) : (s.setReg8 r v).started = s.started := rfl
@[simp] theorem setReg8_fault (r : Reg8) (v : Byte) : (s.setReg8 r v).fault = s.fault := rfl
@[simp] theorem setReg8_instr (r : Reg8) (v : Byte) : (s.setReg8 r v).instr = s.instr := rfl
@[simp] theorem setReg8_clock (r : Reg8) (v : Byte) : (s.setReg8 r v).clock = s.clock := rfl
@[simp] theorem setReg8_instrOld (r : Reg8) (v : Byte) : (s.setReg8 r v).instrOld = s.instrOld := rfl
@[simp] theorem setReg8_instrDelta (r : Reg8) (v : Byte) : (s.setReg8 r v).instrDelta = s.instrDelta := rfl
@[simp] theorem setReg8_clockOld (r : Reg8) (v : Byte) : (s.setReg8 r v).clockOld = s.clockOld := rfl
@[simp] theorem setReg8_clockDelta (r : Reg8) (v : Byte) : (s.setReg8 r v).clockDelta = s.clockDelta := rfl
@[simp] theorem setReg8_mem (r : Reg8) (v : Byte) : (s.setReg8 r v).mem = s.mem := rfl
@[simp] theorem setReg8_agenda (r : Reg8) (v : Byte) : (s.setReg8 r v).agenda = s.agenda := rfl
@[simp] theorem setReg8_draws (r : Reg8) (v : Byte) : (s.setReg8 r v).draws = s.draws := rfl
@[simp] theorem setReg8_view (r : Reg8) (v : Byte) : (s.setReg8 r v).view = s.view := rfl
@[simp] theorem setReg8_width (r : Reg8) (v : Byte) : (s.setReg8 r v).width = s.width := rfl

/-! ### advance -/

@[simp] theorem advance_regs (n : Nat) : (advance n s).regs = s.regs := rfl
@[simp] theorem advance_eip (n : Nat) : (advance n s).eip = BitVec.ofNat 32 ((s.eip.toNat + n) % Config.memSize) := rfl
@[simp] theorem advance_mode (n : Nat) : (advance n s).mode = s.mode := rfl
@[simp] theorem advance_lookback (n : Nat) : (advance n s).lookback = s.lookback := rfl
@[simp] theorem advance_current (n : Nat) : (advance n s).current = s.current := rfl
@[simp] theorem advance_halted (n : Nat) : (advance n s).halted = s.halted := rfl
@[simp] theorem advance_started (n : Nat) : (advance n s).started = s.started := rfl
@[simp] theorem advance_fault (n : Nat) : (advance n s).fault = s.fault := rfl
@[simp] theorem advance_instr (n : Nat) : (advance n s).instr = s.instr := rfl
@[simp] theorem advance_clock (n : Nat) : (advance n s).clock = s.clock + 1 := rfl
@[simp] theorem advance_instrOld (n : Nat) : (advance n s).instrOld = s.instrOld := rfl
@[simp] theorem advance_instrDelta (n : Nat) : (advance n s).instrDelta = s.instrDelta := rfl
@[simp] theorem advance_clockOld (n : Nat) : (advance n s).clockOld = s.clockOld := rfl
@[simp] theorem advance_clockDelta (n : Nat) : (advance n s).clockDelta = s.clockDelta := rfl
@[simp] theorem advance_mem (n : Nat) : (advance n s).mem = s.mem := rfl
@[simp] theorem advance_agenda (n : Nat) : (advance n s).agenda = s.agenda := rfl
@[simp] theorem advance_draws (n : Nat) : (advance n s).draws = s.draws := rfl
@[simp] theorem advance_view (n : Nat) : (advance n s).view = s.view := rfl
@[simp] theorem advance_width (n : Nat) : (advance n s).width = s.width := rfl

/-! ### fetchOpcode -/

@[simp] theorem fetchOpcode_regs : (fetchOpcode s).regs = s.regs := rfl
@[simp] theorem fetchOpcode_eip : (fetchOpcode s).eip = BitVec.ofNat 32 ((s.eip.toNat + 1) % Config.memSize) := rfl
@[simp] theorem fetchOpcode_mode : (fetchOpcode s).mode = s.mode := rfl
@[simp] theorem fetchOpcode_lookback : (fetchOpcode s).lookback = s.lookback := rfl
@[simp] theorem fetchOpcode_current : (fetchOpcode s).current = fetchAt s 0 := rfl
@[simp] theorem fetchOpcode_halted : (fetchOpcode s).halted = s.halted := rfl
@[simp] theorem fetchOpcode_started : (fetchOpcode s).started = s.started := rfl
@[simp] theorem fetchOpcode_fault : (fetchOpcode s).fault = s.fault := rfl
@[simp] theorem fetchOpcode_instr : (fetchOpcode s).instr = s.instr := rfl
@[simp] theorem fetchOpcode_clock : (fetchOpcode s).clock = s.clock + 1 := rfl
@[simp] theorem fetchOpcode_instrOld : (fetchOpcode s).instrOld = s.instrOld := rfl
@[simp] theorem fetchOpcode_instrDelta : (fetchOpcode s).instrDelta = s.instrDelta := rfl
@[simp] theorem fetchOpcode_clockOld : (fetchOpcode s).clockOld = s.clockOld := rfl
@[simp] theorem fetchOpcode_clockDelta : (fetchOpcode s).clockDelta = s.clockDelta := rfl
@[simp] theorem fetchOpcode_mem : (fetchOpcode s).mem = s.mem := rfl
@[simp] theorem fetchOpcode_agenda : (fetchOpcode s).agenda = s.agenda := rfl
@[simp] theorem fetchOpcode_draws : (fetchOpcode s).draws = s.draws := rfl
@[simp] theorem fetchOpcode_view : (fetchOpcode s).view = s.view := rfl
@[simp] theorem fetchOpcode_width : (fetchOpcode s).width = s.width := rfl

/-! ### epilogue -/

@[simp] theorem epilogue_regs : (epilogue s).regs = s.regs := rfl
@[simp] theorem epilogue_eip : (epilogue s).eip = s.eip := rfl
@[simp] theorem epilogue_mode : (epilogue s).mode = s.mode := rfl
@[simp] theorem epilogue_lookback : (epilogue s).lookback = s.current := rfl
@[simp] theorem epilogue_current : (epilogue s).current = s.current := rfl
@[simp] theorem epilogue_halted : (epilogue s).halted = s.halted := rfl
@[simp] theorem epilogue_started : (epilogue s).started = s.started := rfl
@[simp] theorem epilogue_fault : (epilogue s).fault = s.fault := rfl
@[simp] theorem epilogue_instr : (epilogue s).instr = s.instr + 1 := rfl
@[simp] theorem epilogue_clock : (epilogue s).clock = s.clock + 1 := rfl
@[simp] theorem epilogue_instrOld : (epilogue s).instrOld = s.instrOld := rfl
@[simp] theorem epilogue_instrDelta : (epilogue s).instrDelta = s.instrDelta := rfl
@[simp] theorem epilogue_clockOld : (epilogue s).clockOld = s.clockOld := rfl
@[simp] theorem epilogue_clockDelta : (epilogue s).clockDelta = s.clockDelta := rfl
@[simp] theorem epilogue_mem : (epilogue s).mem = s.mem := rfl
@[simp] theorem epilogue_agenda : (epilogue s).agenda = s.agenda := rfl
@[simp] theorem epilogue_draws : (epilogue s).draws = s.draws := rfl
@[simp] theorem epilogue_view : (epilogue s).view = s.view := rfl

/-! ### raise -/

@[simp] theorem raise_regs (f : Failure) : (raise f s).regs = s.regs := rfl
@[simp] theorem raise_eip (f : Failure) : (raise f s).eip = s.eip := rfl
@[simp] theorem raise_mode (f : Failure) : (raise f s).mode = s.mode := rfl
@[simp] theorem raise_lookback (f : Failure) : (raise f s).lookback = s.lookback := rfl
@[simp] theorem raise_current (f : Failure) : (raise f s).current = s.current := rfl
@[simp] theorem raise_halted (f : Failure) : (raise f s).halted = true := rfl
@[simp] theorem raise_started (f : Failure) : (raise f s).started = s.started := rfl
@[simp] theorem raise_fault (f : Failure) : (raise f s).fault = some f := rfl
@[simp] theorem raise_instr (f : Failure) : (raise f s).instr = s.instr := rfl
@[simp] theorem raise_clock (f : Failure) : (raise f s).clock = s.clock := rfl
@[simp] theorem raise_instrOld (f : Failure) : (raise f s).instrOld = s.instrOld := rfl
@[simp] theorem raise_instrDelta (f : Failure) : (raise f s).instrDelta = s.instrDelta := rfl
@[simp] theorem raise_clockOld (f : Failure) : (raise f s).clockOld = s.clockOld := rfl
@[simp] theorem raise_clockDelta (f : Failure) : (raise f s).clockDelta = s.clockDelta := rfl
@[simp] theorem raise_mem (f : Failure) : (raise f s).mem = s.mem := rfl
@[simp] theorem raise_agenda (f : Failure) : (raise f s).agenda = s.agenda := rfl
@[simp] theorem raise_draws (f : Failure) : (raise f s).draws = s.draws := rfl
@[simp] theorem raise_view (f : Failure) : (raise f s).view = s.view := rfl
@[simp] theorem raise_width (f : Failure) : (raise f s).width = s.width := rfl

/-! ### sampleInstr -/

@[simp] theorem sampleInstr_regs : (sampleInstr s).regs = s.regs := rfl
@[simp] theorem sampleInstr_eip : (sampleInstr s).eip = s.eip := rfl
@[simp] theorem sampleInstr_mode : (sampleInstr s).mode = s.mode := rfl
@[simp] theorem sampleInstr_lookback : (sampleInstr s).lookback = s.lookback := rfl
@[simp] theorem sampleInstr_current : (sampleInstr s).current = s.current := rfl
@[simp] theorem sampleInstr_halted : (sampleInstr s).halted = s.halted := rfl
@[simp] theorem sampleInstr_started : (sampleInstr s).started = s.started := rfl
@[simp] theorem sampleInstr_fault : (sampleInstr s).fault = s.fault := rfl
@[simp] theorem sampleInstr_instr : (sampleInstr s).instr = s.instr := rfl
@[simp] theorem sampleInstr_clock : (sampleInstr s).clock = s.clock := rfl
@[simp] theorem sampleInstr_instrOld : (sampleInstr s).instrOld = s.instr := rfl
@[simp] theorem sampleInstr_instrDelta : (sampleInstr s).instrDelta = s.instr - s.instrOld := rfl
@[simp] theorem sampleInstr_clockOld : (sampleInstr s).clockOld = s.clockOld := rfl
@[simp] theorem sampleInstr_clockDelta : (sampleInstr s).clockDelta = s.clockDelta := rfl
@[simp] theorem sampleInstr_mem : (sampleInstr s).mem = s.mem := rfl
@[simp] theorem sampleInstr_agenda : (sampleInstr s).agenda = s.agenda := rfl
@[simp] theorem sampleInstr_draws : (sampleInstr s).draws = s.draws := rfl
@[simp] theorem sampleInstr_view : (sampleInstr s).view = s.view := rfl
@[simp] theorem sampleInstr_width : (sampleInstr s).width = s.width := rfl

/-! ### sampleClock -/

@[simp] theorem sampleClock_regs : (sampleClock s).regs = s.regs := rfl
@[simp] theorem sampleClock_eip : (sampleClock s).eip = s.eip := rfl
@[simp] theorem sampleClock_mode : (sampleClock s).mode = s.mode := rfl
@[simp] theorem sampleClock_lookback : (sampleClock s).lookback = s.lookback := rfl
@[simp] theorem sampleClock_current : (sampleClock s).current = s.current := rfl
@[simp] theorem sampleClock_halted : (sampleClock s).halted = s.halted := rfl
@[simp] theorem sampleClock_started : (sampleClock s).started = s.started := rfl
@[simp] theorem sampleClock_fault : (sampleClock s).fault = s.fault := rfl
@[simp] theorem sampleClock_instr : (sampleClock s).instr = s.instr := rfl
@[simp] theorem sampleClock_clock : (sampleClock s).clock = s.clock := rfl
@[simp] theorem sampleClock_instrOld : (sampleClock s).instrOld = s.instrOld := rfl
@[simp] theorem sampleClock_instrDelta : (sampleClock s).instrDelta = s.instrDelta := rfl
@[simp] theorem sampleClock_clockOld : (sampleClock s).clockOld = s.clock := rfl
@[simp] theorem sampleClock_clockDelta : (sampleClock s).clockDelta = s.clock - s.clockOld := rfl
@[simp] theorem sampleClock_mem : (sampleClock s).mem = s.mem := rfl
@[simp] theorem sampleClock_agenda : (sampleClock s).agenda = s.agenda := rfl
@[simp] theorem sampleClock_draws : (sampleClock s).draws = s.draws := rfl
@[simp] theorem sampleClock_view : (sampleClock s).view = s.view := rfl
@[simp] theorem sampleClock_width : (sampleClock s).width = s.width := rfl

/-! ### placed -/

@[simp] theorem placed_regs (l : List Byte) : (s.placed l).regs = s.regs := rfl
@[simp] theorem placed_eip (l : List Byte) : (s.placed l).eip = s.eip := rfl
@[simp] theorem placed_mode (l : List Byte) : (s.placed l).mode = s.mode := rfl
@[simp] theorem placed_lookback (l : List Byte) : (s.placed l).lookback = s.lookback := rfl
@[simp] theorem placed_current (l : List Byte) : (s.placed l).current = s.current := rfl
@[simp] theorem placed_halted (l : List Byte) : (s.placed l).halted = s.halted := rfl
@[simp] theorem placed_started (l : List Byte) : (s.placed l).started = s.started := rfl
@[simp] theorem placed_fault (l : List Byte) : (s.placed l).fault = s.fault := rfl
@[simp] theorem placed_instr (l : List Byte) : (s.placed l).instr = s.instr := rfl
@[simp] theorem placed_clock (l : List Byte) : (s.placed l).clock = s.clock := rfl
@[simp] theorem placed_instrOld (l : List Byte) : (s.placed l).instrOld = s.instrOld := rfl
@[simp] theorem placed_instrDelta (l : List Byte) : (s.placed l).instrDelta = s.instrDelta := rfl
@[simp] theorem placed_clockOld (l : List Byte) : (s.placed l).clockOld = s.clockOld := rfl
@[simp] theorem placed_clockDelta (l : List Byte) : (s.placed l).clockDelta = s.clockDelta := rfl
@[simp] theorem placed_agenda (l : List Byte) : (s.placed l).agenda = s.agenda := rfl
@[simp] theorem placed_draws (l : List Byte) : (s.placed l).draws = s.draws := rfl
@[simp] theorem placed_view (l : List Byte) : (s.placed l).view = s.view := rfl
@[simp] theorem placed_width (l : List Byte) : (s.placed l).width = s.width := rfl

/-! ### withFetchWord -/

@[simp] theorem withFetchWord_regs (n w : Nat) : (s.withFetchWord n w).regs = s.regs := rfl
@[simp] theorem withFetchWord_eip (n w : Nat) : (s.withFetchWord n w).eip = s.eip := rfl
@[simp] theorem withFetchWord_mode (n w : Nat) : (s.withFetchWord n w).mode = s.mode := rfl
@[simp] theorem withFetchWord_lookback (n w : Nat) : (s.withFetchWord n w).lookback = s.lookback := rfl
@[simp] theorem withFetchWord_current (n w : Nat) : (s.withFetchWord n w).current = s.current := rfl
@[simp] theorem withFetchWord_halted (n w : Nat) : (s.withFetchWord n w).halted = false := rfl
@[simp] theorem withFetchWord_started (n w : Nat) : (s.withFetchWord n w).started = true := rfl
@[simp] theorem withFetchWord_fault (n w : Nat) : (s.withFetchWord n w).fault = s.fault := rfl
@[simp] theorem withFetchWord_instr (n w : Nat) : (s.withFetchWord n w).instr = s.instr := rfl
@[simp] theorem withFetchWord_clock (n w : Nat) : (s.withFetchWord n w).clock = s.clock := rfl
@[simp] theorem withFetchWord_instrOld (n w : Nat) : (s.withFetchWord n w).instrOld = s.instrOld := rfl
@[simp] theorem withFetchWord_instrDelta (n w : Nat) : (s.withFetchWord n w).instrDelta = s.instrDelta := rfl
@[simp] theorem withFetchWord_clockOld (n w : Nat) : (s.withFetchWord n w).clockOld = s.clockOld := rfl
@[simp] theorem withFetchWord_clockDelta (n w : Nat) : (s.withFetchWord n w).clockDelta = s.clockDelta := rfl
@[simp] theorem withFetchWord_mem (n w : Nat) : (s.withFetchWord n w).mem = (s.placed (tableWindow n w).bytes).mem := rfl
@[simp] theorem withFetchWord_agenda (n w : Nat) : (s.withFetchWord n w).agenda = [] := rfl
@[simp] theorem withFetchWord_draws (n w : Nat) : (s.withFetchWord n w).draws = s.draws := rfl
@[simp] theorem withFetchWord_view (n w : Nat) : (s.withFetchWord n w).view = s.view := rfl

/-! ### construct -/

@[simp] theorem construct_regs (m : Mode) (c : Memory) : (State.construct m c).regs = Regs.zero := rfl
@[simp] theorem construct_eip (m : Mode) (c : Memory) : (State.construct m c).eip = 0 := rfl
@[simp] theorem construct_mode (m : Mode) (c : Memory) : (State.construct m c).mode = m := rfl
@[simp] theorem construct_lookback (m : Mode) (c : Memory) : (State.construct m c).lookback = Config.initLookback := rfl
@[simp] theorem construct_current (m : Mode) (c : Memory) : (State.construct m c).current = 0 := rfl
@[simp] theorem construct_halted (m : Mode) (c : Memory) : (State.construct m c).halted = true := rfl
@[simp] theorem construct_started (m : Mode) (c : Memory) : (State.construct m c).started = false := rfl
@[simp] theorem construct_fault (m : Mode) (c : Memory) : (State.construct m c).fault = none := rfl
@[simp] theorem construct_instr (m : Mode) (c : Memory) : (State.construct m c).instr = 0 := rfl
@[simp] theorem construct_clock (m : Mode) (c : Memory) : (State.construct m c).clock = 0 := rfl
@[simp] theorem construct_instrOld (m : Mode) (c : Memory) : (State.construct m c).instrOld = 0 := rfl
@[simp] theorem construct_instrDelta (m : Mode) (c : Memory) : (State.construct m c).instrDelta = 0 := rfl
@[simp] theorem construct_clockOld (m : Mode) (c : Memory) : (State.construct m c).clockOld = 0 := rfl
@[simp] theorem construct_clockDelta (m : Mode) (c : Memory) : (State.construct m c).clockDelta = 0 := rfl
@[simp] theorem construct_mem (m : Mode) (c : Memory) : (State.construct m c).mem = c := rfl
@[simp] theorem construct_agenda (m : Mode) (c : Memory) : (State.construct m c).agenda = [] := rfl
@[simp] theorem construct_draws (m : Mode) (c : Memory) : (State.construct m c).draws = 0 := rfl
@[simp] theorem construct_view (m : Mode) (c : Memory) : (State.construct m c).view = none := rfl

end Sys2Proof.Machine
end

