-- ==== Sys2Proof/Laws/Views.lean ====
section
/-!
SUPPORT. The laws of the register views (spec/10_state.md R24, R25): what a write of one view does to every view.
-/

namespace Sys2Proof.Machine

/-! ## One 32-bit value -/

@[simp] theorem lowWord_setLowWord (x : Word32) (v : Word16) : lowWord (setLowWord x v) = v := by
  apply BitVec.eq_of_getLsbD_eq
  intro i hi
  interval_cases i <;> simp [lowWord, setLowWord]

@[simp] theorem upper_setLowWord (x : Word32) (v : Word16) :
    (setLowWord x v).extractLsb' 16 16 = x.extractLsb' 16 16 := by
  apply BitVec.eq_of_getLsbD_eq
  intro i hi
  interval_cases i <;> simp [setLowWord]

@[simp] theorem lowByte_setLowByte (x : Word32) (v : Byte) : lowByte (setLowByte x v) = v := by
  apply BitVec.eq_of_getLsbD_eq
  intro i hi
  interval_cases i <;> simp [lowByte, setLowByte]

@[simp] theorem highByte_setLowByte (x : Word32) (v : Byte) : highByte (setLowByte x v) = highByte x := by
  apply BitVec.eq_of_getLsbD_eq
  intro i hi
  interval_cases i <;> simp [highByte, setLowByte]

@[simp] theorem upper_setLowByte (x : Word32) (v : Byte) :
    (setLowByte x v).extractLsb' 16 16 = x.extractLsb' 16 16 := by
  apply BitVec.eq_of_getLsbD_eq
  intro i hi
  interval_cases i <;> simp [setLowByte]

@[simp] theorem highByte_setHighByte (x : Word32) (v : Byte) : highByte (setHighByte x v) = v := by
  apply BitVec.eq_of_getLsbD_eq
  intro i hi
  interval_cases i <;> simp [highByte, setHighByte]

@[simp] theorem lowByte_setHighByte (x : Word32) (v : Byte) : lowByte (setHighByte x v) = lowByte x := by
  apply BitVec.eq_of_getLsbD_eq
  intro i hi
  interval_cases i <;> simp [lowByte, setHighByte]

@[simp] theorem upper_setHighByte (x : Word32) (v : Byte) :
    (setHighByte x v).extractLsb' 16 16 = x.extractLsb' 16 16 := by
  apply BitVec.eq_of_getLsbD_eq
  intro i hi
  interval_cases i <;> simp [setHighByte]

/-! ## The register file -/

@[simp] theorem Regs.get_set_same (g : Regs) (r : Gpr) (v : Word32) : (g.set r v).get r = v := by
  cases r <;> rfl

theorem Regs.get_set_other {g : Regs} {q r : Gpr} {v : Word32} (h : q ≠ r) : (g.set r v).get q = g.get q := by
  cases r <;> cases q <;> first | rfl | exact absurd rfl h

/-- A write of a register with a numbered name leaves the four without views alone. -/
theorem Regs.set_parent_unnumbered (g : Regs) (r : Reg8) (v : Word32) :
    (g.set (parent r) v).esp = g.esp ∧ (g.set (parent r) v).ebp = g.ebp ∧
      (g.set (parent r) v).esi = g.esi ∧ (g.set (parent r) v).edi = g.edi := by
  cases r <;> exact ⟨rfl, rfl, rfl, rfl⟩

@[simp] theorem Regs.get16_set16 (g : Regs) (r : Gpr) (v : Word16) : (g.set16 r v).get16 r = v := by
  simp [Regs.get16, Regs.set16]

/-- Two 8-bit views are the same when they lie in the same register and half. -/
theorem reg8_ext {q d : Reg8} (hp : parent q = parent d) (hh : isHigh q = isHigh d) : q = d := by
  revert hp hh
  cases q <;> cases d <;> decide

@[simp] theorem Regs.get8_set8_same (g : Regs) (d : Reg8) (v : Byte) : (g.set8 d v).get8 d = v := by
  simp only [Regs.get8, Regs.set8, Regs.get_set_same]
  cases isHigh d <;> simp

theorem Regs.get8_set8_other {g : Regs} {q d : Reg8} {v : Byte} (h : q ≠ d) : (g.set8 d v).get8 q = g.get8 q := by
  unfold Regs.get8 Regs.set8
  by_cases hp : parent q = parent d
  · rw [hp, Regs.get_set_same]
    cases hq : isHigh q <;> cases hd : isHigh d <;>
      first | exact absurd (reg8_ext hp (hq.trans hd.symm)) h | simp
  · rw [Regs.get_set_other hp]

/-- A write of an 8-bit view changes no register's bits 31 to 16. -/
theorem Regs.upper_set8 (g : Regs) (d : Reg8) (v : Byte) (r : Gpr) :
    ((g.set8 d v).get r).extractLsb' 16 16 = (g.get r).extractLsb' 16 16 := by
  unfold Regs.set8
  by_cases hr : r = parent d
  · subst hr
    rw [Regs.get_set_same]
    cases isHigh d <;> simp
  · rw [Regs.get_set_other hr]

end Sys2Proof.Machine
end

