-- ==== Sys2Proof/Laws/Ops.lean ====
section
/-!
SUPPORT. One lemma for each shared operation that says once everything it can do: the fetch path, the addressed path, the end
of a dispatch, and each shape of instruction.
-/

namespace Sys2Proof.Machine

/-! ## The fetch path (spec/20_memory.md R56, R57) -/

/-- Where `EIP` stands after `n` more bytes of the fetch path, as a number. -/
theorem advance_eip_toNat (n : Nat) (s : State) : (advance n s).eip.toNat = (s.eip.toNat + n) % Config.memSize := by
  rw [advance_eip, BitVec.toNat_ofNat]
  simp only [Config.memSize]
  omega

theorem advance_eip_lt (n : Nat) (s : State) : (advance n s).eip.toNat < Config.memSize := by
  rw [advance_eip_toNat]
  exact Nat.mod_lt _ (by decide)

/-- The fetch path reads on where it stopped. -/
theorem fetchAt_advance (n k : Nat) (s : State) : fetchAt (advance n s) k = fetchAt s (n + k) := by
  unfold fetchAt
  rw [advance_eip_toNat, advance_mem]
  rw [Nat.mod_add_mod, Nat.add_assoc]

/-- Two advances make one, but for the ticks. -/
theorem advance_advance (m n : Nat) (s : State) :
    advance n (advance m s) = { advance (m + n) s with clock := s.clock + 2 } := by
  have he : (advance n (advance m s)).eip = (advance (m + n) s).eip := by
    apply BitVec.eq_of_toNat_eq
    rw [advance_eip_toNat, advance_eip_toNat, advance_eip_toNat, Nat.mod_add_mod, Nat.add_assoc]
  have hc : (advance n (advance m s)).clock = s.clock + 2 := by
    simp only [advance_clock]
    rw [BitVec.add_assoc]
    rfl
  show ({ s with eip := (advance n (advance m s)).eip, clock := (advance n (advance m s)).clock } : State) = _
  rw [he, hc]
  rfl

theorem fetchOpcode_eq (s : State) : fetchOpcode s = { advance 1 s with current := fetchAt s 0 } := rfl

/-- What completing an instruction with its operand field gives: the instruction read from the bytes, and one more `Fetch` when
there is a field. -/
theorem fetchTail_eq (t : Tail) (s : State) :
    fetchTail t s = (t.read (fetchAt s 0) (fetchAt s 1) (fetchAt s 2) (fetchAt s 3),
      match t with
      | .none _ => s
      | .byte _ => advance 1 s
      | .word _ => advance 2 s
      | .dword _ => advance 4 s) := by
  cases t <;> rfl

/-! ## The addressed path (R53 to R55) -/

theorem inStore_iff {a : Word32} {n : Nat} : inStore a n = true ↔ a.toNat + n ≤ Config.memSize := by
  simp [inStore]

/-- A read or write inside the store, and outside it. -/
theorem readByteAt_ok {a : Word32} {s : State} (h : a.toNat + 1 ≤ Config.memSize) :
    readByteAt a s = .ok (s.mem.read a.toNat) := if_pos (inStore_iff.mpr h)

theorem readByteAt_error {a : Word32} {s : State} (h : Config.memSize < a.toNat + 1) :
    readByteAt a s = .error (.memoryFault a) := if_neg (by rw [inStore_iff]; omega)

theorem readWordAt_ok {a : Word32} {s : State} (h : a.toNat + 2 ≤ Config.memSize) :
    readWordAt a s = .ok (le16 (s.mem.read a.toNat) (s.mem.read (a.toNat + 1))) := if_pos (inStore_iff.mpr h)

theorem readWordAt_error {a : Word32} {s : State} (h : Config.memSize < a.toNat + 2) :
    readWordAt a s = .error (.memoryFault a) := if_neg (by rw [inStore_iff]; omega)

theorem readDwordAt_ok {a : Word32} {s : State} (h : a.toNat + 4 ≤ Config.memSize) :
    readDwordAt a s = .ok (le32 (s.mem.read a.toNat) (s.mem.read (a.toNat + 1)) (s.mem.read (a.toNat + 2))
      (s.mem.read (a.toNat + 3))) := if_pos (inStore_iff.mpr h)

theorem readDwordAt_error {a : Word32} {s : State} (h : Config.memSize < a.toNat + 4) :
    readDwordAt a s = .error (.memoryFault a) := if_neg (by rw [inStore_iff]; omega)

/-- A read that answers a value lies in the store. -/
theorem readWordAt_inside {a : Word32} {s : State} {v : Word16} (h : readWordAt a s = .ok v) :
    a.toNat + 2 ≤ Config.memSize := by
  rcases Nat.lt_or_ge Config.memSize (a.toNat + 2) with hlt | hge
  · rw [readWordAt_error hlt] at h
    cases h
  · exact hge

theorem readDwordAt_inside {a : Word32} {s : State} {v : Word32} (h : readDwordAt a s = .ok v) :
    a.toNat + 4 ≤ Config.memSize := by
  rcases Nat.lt_or_ge Config.memSize (a.toNat + 4) with hlt | hge
  · rw [readDwordAt_error hlt] at h
    cases h
  · exact hge

theorem writeByteAt_ok {a : Word32} {v : Byte} {s : State} (h : a.toNat + 1 ≤ Config.memSize) :
    writeByteAt a v s = .ok { s with mem := s.mem.write a.toNat v } := if_pos (inStore_iff.mpr h)

theorem writeByteAt_error {a : Word32} {v : Byte} {s : State} (h : Config.memSize < a.toNat + 1) :
    writeByteAt a v s = .error (.memoryFault a) := if_neg (by rw [inStore_iff]; omega)

theorem writeWordAt_ok {a : Word32} {v : Word16} {s : State} (h : a.toNat + 2 ≤ Config.memSize) :
    writeWordAt a v s = .ok { s with mem := (s.mem.write a.toNat (byteOf v 0)).write (a.toNat + 1) (byteOf v 1) } :=
  if_pos (inStore_iff.mpr h)

theorem writeWordAt_error {a : Word32} {v : Word16} {s : State} (h : Config.memSize < a.toNat + 2) :
    writeWordAt a v s = .error (.memoryFault a) := if_neg (by rw [inStore_iff]; omega)

theorem writeDwordAt_ok {a : Word32} {v : Word32} {s : State} (h : a.toNat + 4 ≤ Config.memSize) :
    writeDwordAt a v s = .ok { s with
      mem := (((s.mem.write a.toNat (byteOf v 0)).write (a.toNat + 1) (byteOf v 1)).write
        (a.toNat + 2) (byteOf v 2)).write (a.toNat + 3) (byteOf v 3) } := if_pos (inStore_iff.mpr h)

theorem writeDwordAt_error {a : Word32} {v : Word32} {s : State} (h : Config.memSize < a.toNat + 4) :
    writeDwordAt a v s = .error (.memoryFault a) := if_neg (by rw [inStore_iff]; omega)

/-- What a completed write can have done: memory alone has changed, the canonical form is kept, and a byte that has changed
lies among the `n` written. -/
def Stored (a : Word32) (n : Nat) (s t : State) : Prop :=
  a.toNat + n ≤ Config.memSize ∧ t = { s with mem := t.mem } ∧ (s.mem.wf = true → t.mem.wf = true) ∧
    ∀ x, (x < a.toNat ∨ a.toNat + n ≤ x) → t.mem.read x = s.mem.read x

theorem writeByteAt_stored {a : Word32} {v : Byte} {s t : State} (h : writeByteAt a v s = .ok t) : Stored a 1 s t := by
  unfold writeByteAt at h
  split at h
  · next hin =>
    rw [inStore_iff] at hin
    cases h
    exact ⟨hin, rfl, fun hw => Memory.write_wf hw (by omega), fun x hx => Memory.read_write_other (by omega)⟩
  · cases h

theorem writeWordAt_stored {a : Word32} {v : Word16} {s t : State} (h : writeWordAt a v s = .ok t) : Stored a 2 s t := by
  unfold writeWordAt at h
  split at h
  · next hin =>
    rw [inStore_iff] at hin
    cases h
    refine ⟨hin, rfl, fun hw => Memory.write_wf (Memory.write_wf hw (by omega)) (by omega), fun x hx => ?_⟩
    show ((s.mem.write _ _).write _ _).read x = _
    rw [Memory.read_write_other (by omega), Memory.read_write_other (by omega)]
  · cases h

theorem writeDwordAt_stored {a : Word32} {v : Word32} {s t : State} (h : writeDwordAt a v s = .ok t) : Stored a 4 s t := by
  unfold writeDwordAt at h
  split at h
  · next hin =>
    rw [inStore_iff] at hin
    cases h
    refine ⟨hin, rfl, fun hw => ?_, fun x hx => ?_⟩
    · exact Memory.write_wf (Memory.write_wf (Memory.write_wf (Memory.write_wf hw (by omega)) (by omega)) (by omega))
        (by omega)
    · show ((((s.mem.write _ _).write _ _).write _ _).write _ _).read x = _
      rw [Memory.read_write_other (by omega), Memory.read_write_other (by omega),
        Memory.read_write_other (by omega), Memory.read_write_other (by omega)]
  · cases h

/-! ## Effective addresses (R64) -/

theorem effective_a16_toNat (a : Word16) : (effective (.a16 a)).toNat = a.toNat := by
  simp only [effective, BitVec.toNat_setWidth]
  omega

@[simp] theorem effective_a32 (a : Word32) : effective (.a32 a) = a := rfl

/-- A 16-bit address and four bytes from it lie in the store (R51). -/
theorem effective_a16_inStore (a : Word16) : (effective (.a16 a)).toNat + 4 ≤ Config.memSize := by
  rw [effective_a16_toNat]
  have := a.isLt
  simp only [Config.memSize]
  omega

/-! ## The shapes of instruction: all that each can answer -/

theorem finish_next {s t : State} {r : Except Failure State} (h : finish s r = .next t) :
    (∃ u, r = .ok u ∧ t = epilogue u) ∨ (∃ f, r = .error f ∧ t = raise f s) := by
  cases r with
  | ok u => exact .inl ⟨u, rfl, by simpa [finish] using h.symm⟩
  | error f => exact .inr ⟨f, rfl, by simpa [finish] using h.symm⟩

theorem noOperation_next {s t : State} (h : noOperation s = .next t) : t = epilogue s := by
  simpa [noOperation] using h.symm

theorem incGpr_next {r : Gpr} {s t : State} (h : incGpr r s = .next t) :
    (s.width = .w16 ∧ t = epilogue (s.setGpr16 r (inc (s.regs.get16 r)))) ∨
      (s.width = .w32 ∧ t = epilogue (s.setGpr r (inc (s.regs.get r)))) := by
  unfold incGpr at h
  split at h
  · next hw => exact .inl ⟨hw, by simpa using h.symm⟩
  · next hw => exact .inr ⟨hw, by simpa using h.symm⟩

theorem incReg8_next {r : Reg8} {s t : State} (h : incReg8 r s = .next t) :
    t = epilogue (s.setReg8 r (inc (s.regs.get8 r))) := by
  simpa [incReg8] using h.symm

theorem movReg8_next {d src : Reg8} {s t : State} (h : movReg8 d src s = .next t) :
    t = epilogue (s.setReg8 d (s.regs.get8 src)) := by
  simpa [movReg8] using h.symm

theorem movImm8_next {d : Reg8} {v : Byte} {s t : State} (h : movImm8 d v s = .next t) :
    t = epilogue (s.setReg8 d v) := by
  simpa [movImm8] using h.symm

theorem movImm_next {d : Gpr} {v : Imm} {s t : State} (h : movImm d v s = .next t) :
    (∃ x, v = .i16 x ∧ t = epilogue (s.setGpr16 d x)) ∨ (∃ x, v = .i32 x ∧ t = epilogue (s.setGpr d x)) := by
  cases v with
  | i16 x => exact .inl ⟨x, rfl, by simpa [movImm] using h.symm⟩
  | i32 x => exact .inr ⟨x, rfl, by simpa [movImm] using h.symm⟩

theorem jump_next {v : Byte} {s t : State} (h : jump v s = .next t) :
    t = epilogue { s with eip := jumpTarget s.eip v } := by
  simpa [jump] using h.symm

theorem halt_next {s t : State} (h : halt s = .next t) : t = epilogue { s with halted := true } := by
  simpa [halt] using h.symm

/-- The jump's target, as a number (R211). -/
theorem jumpTarget_toNat (e : Word32) (v : Byte) : (jumpTarget e v).toNat = (e.toNat + v.toNat + 1) % 256 := by
  simp only [jumpTarget, jmpBias, jmpModulus, BitVec.toNat_ofNat]
  omega

/-- A load of a byte completes with the byte, or takes `MemoryFault`. -/
theorem loadReg8_next {d : Reg8} {a : Addr} {s t : State} (h : loadReg8 d a s = .next t) :
    ((effective a).toNat + 1 ≤ Config.memSize ∧
      t = epilogue (s.setReg8 d (s.mem.read (effective a).toNat))) ∨
    (Config.memSize < (effective a).toNat + 1 ∧ t = raise (.memoryFault (effective a)) s) := by
  rcases Nat.lt_or_ge Config.memSize ((effective a).toNat + 1) with hlt | hge
  · refine .inr ⟨hlt, ?_⟩
    rw [loadReg8, readByteAt_error hlt] at h
    simpa [finish, bind, Except.bind] using h.symm
  · refine .inl ⟨hge, ?_⟩
    rw [loadReg8, readByteAt_ok hge] at h
    simpa [finish, bind, Except.bind] using h.symm

/-- A load by W completes with the word or dword, or takes `MemoryFault`. -/
theorem loadGpr_next {d : Gpr} {a : Addr} {s t : State} (h : loadGpr d a s = .next t) :
    (s.width = .w16 ∧ ∃ x, readWordAt (effective a) s = .ok x ∧ t = epilogue (s.setGpr16 d x)) ∨
    (s.width = .w32 ∧ ∃ x, readDwordAt (effective a) s = .ok x ∧ t = epilogue (s.setGpr d x)) ∨
    (s.width = .w16 ∧ Config.memSize < (effective a).toNat + 2 ∧ t = raise (.memoryFault (effective a)) s) ∨
    (s.width = .w32 ∧ Config.memSize < (effective a).toNat + 4 ∧ t = raise (.memoryFault (effective a)) s) := by
  unfold loadGpr at h
  split at h
  · next hw =>
    rcases Nat.lt_or_ge Config.memSize ((effective a).toNat + 2) with hlt | hge
    · rw [readWordAt_error hlt] at h
      exact .inr (.inr (.inl ⟨hw, hlt, by simpa [finish, bind, Except.bind] using h.symm⟩))
    · rw [readWordAt_ok hge] at h
      exact .inl ⟨hw, _, readWordAt_ok hge, by simpa [finish, bind, Except.bind] using h.symm⟩
  · next hw =>
    rcases Nat.lt_or_ge Config.memSize ((effective a).toNat + 4) with hlt | hge
    · rw [readDwordAt_error hlt] at h
      exact .inr (.inr (.inr ⟨hw, hlt, by simpa [finish, bind, Except.bind] using h.symm⟩))
    · rw [readDwordAt_ok hge] at h
      exact .inr (.inl ⟨hw, _, readDwordAt_ok hge, by simpa [finish, bind, Except.bind] using h.symm⟩)

/-- An increment of a byte of memory stores the byte plus 1, or takes `MemoryFault`. -/
theorem incMemByte_next {a : Addr} {s t : State} (h : incMemByte a s = .next t) :
    (∃ u, writeByteAt (effective a) (inc (s.mem.read (effective a).toNat)) s = .ok u ∧ t = epilogue u) ∨
    (Config.memSize < (effective a).toNat + 1 ∧ t = raise (.memoryFault (effective a)) s) := by
  rcases Nat.lt_or_ge Config.memSize ((effective a).toNat + 1) with hlt | hge
  · rw [incMemByte, readByteAt_error hlt] at h
    exact .inr ⟨hlt, by simpa [finish, bind, Except.bind] using h.symm⟩
  · rw [incMemByte, readByteAt_ok hge] at h
    simp only [bind, Except.bind, writeByteAt_ok hge] at h
    exact .inl ⟨_, writeByteAt_ok hge, by simpa [finish] using h.symm⟩

/-- An increment by W stores the word or dword plus 1, or takes `MemoryFault`. -/
theorem incMemW_next {a : Addr} {s t : State} (h : incMemW a s = .next t) :
    (s.width = .w16 ∧ ∃ x u, readWordAt (effective a) s = .ok x ∧ writeWordAt (effective a) (inc x) s = .ok u ∧
      t = epilogue u) ∨
    (s.width = .w32 ∧ ∃ x u, readDwordAt (effective a) s = .ok x ∧ writeDwordAt (effective a) (inc x) s = .ok u ∧
      t = epilogue u) ∨
    (s.width = .w16 ∧ Config.memSize < (effective a).toNat + 2 ∧ t = raise (.memoryFault (effective a)) s) ∨
    (s.width = .w32 ∧ Config.memSize < (effective a).toNat + 4 ∧ t = raise (.memoryFault (effective a)) s) := by
  unfold incMemW at h
  split at h
  · next hw =>
    rcases Nat.lt_or_ge Config.memSize ((effective a).toNat + 2) with hlt | hge
    · rw [readWordAt_error hlt] at h
      exact .inr (.inr (.inl ⟨hw, hlt, by simpa [finish, bind, Except.bind] using h.symm⟩))
    · rw [readWordAt_ok hge] at h
      simp only [bind, Except.bind, writeWordAt_ok hge] at h
      exact .inl ⟨hw, _, _, readWordAt_ok hge, writeWordAt_ok hge, by simpa [finish] using h.symm⟩
  · next hw =>
    rcases Nat.lt_or_ge Config.memSize ((effective a).toNat + 4) with hlt | hge
    · rw [readDwordAt_error hlt] at h
      exact .inr (.inr (.inr ⟨hw, hlt, by simpa [finish, bind, Except.bind] using h.symm⟩))
    · rw [readDwordAt_ok hge] at h
      simp only [bind, Except.bind, writeDwordAt_ok hge] at h
      exact .inr (.inl ⟨hw, _, _, readDwordAt_ok hge, writeDwordAt_ok hge, by simpa [finish] using h.symm⟩)

/-! ## Every shape answers a next state -/

theorem finish_answers (s : State) (r : Except Failure State) : ∃ t, finish s r = .next t := by
  cases r <;> exact ⟨_, rfl⟩

theorem noOperation_answers (s : State) : ∃ t, noOperation s = .next t := ⟨_, rfl⟩

theorem incGpr_answers (r : Gpr) (s : State) : ∃ t, incGpr r s = .next t := by
  unfold incGpr
  split <;> exact ⟨_, rfl⟩

theorem incReg8_answers (r : Reg8) (s : State) : ∃ t, incReg8 r s = .next t := ⟨_, rfl⟩

theorem incMemByte_answers (a : Addr) (s : State) : ∃ t, incMemByte a s = .next t := finish_answers _ _

theorem incMemW_answers (a : Addr) (s : State) : ∃ t, incMemW a s = .next t := by
  unfold incMemW
  split <;> exact finish_answers _ _

theorem movReg8_answers (d src : Reg8) (s : State) : ∃ t, movReg8 d src s = .next t := ⟨_, rfl⟩

theorem loadReg8_answers (d : Reg8) (a : Addr) (s : State) : ∃ t, loadReg8 d a s = .next t := finish_answers _ _

theorem loadGpr_answers (d : Gpr) (a : Addr) (s : State) : ∃ t, loadGpr d a s = .next t := by
  unfold loadGpr
  split <;> exact finish_answers _ _

theorem movImm8_answers (d : Reg8) (v : Byte) (s : State) : ∃ t, movImm8 d v s = .next t := ⟨_, rfl⟩

theorem movImm_answers (d : Gpr) (v : Imm) (s : State) : ∃ t, movImm d v s = .next t := by
  cases v <;> exact ⟨_, rfl⟩

theorem jump_answers (v : Byte) (s : State) : ∃ t, jump v s = .next t := ⟨_, rfl⟩

theorem halt_answers (s : State) : ∃ t, halt s = .next t := ⟨_, rfl⟩

end Sys2Proof.Machine
end

