-- ==== Sys2Proof/Laws/Decode.lean ====
section
/-!
SUPPORT. The laws of the decoding tables: what each entry of the opcode map and of the second-byte tables stands for, as bytes
and as `Fetch` calls; and the byte order's two directions.
-/

namespace Sys2Proof

/-! ## Byte order (spec/20_memory.md R52) -/

theorem byteOf_toNat {n : Nat} (v : BitVec n) (k : Nat) : (byteOf v k).toNat = v.toNat / 2 ^ (8 * k) % 256 := by
  simp [byteOf, BitVec.extractLsb'_toNat, Nat.shiftRight_eq_div_pow]

/-- A byte appended below. -/
theorem append_byte_toNat {n : Nat} (x : BitVec n) (b : Byte) : (x ++ b).toNat = 256 * x.toNat + b.toNat := by
  rw [BitVec.toNat_append, ← Nat.shiftLeft_add_eq_or_of_lt b.isLt, Nat.shiftLeft_eq]
  omega

theorem le16_toNat (a b : Byte) : (le16 a b).toNat = a.toNat + 256 * b.toNat := by
  rw [le16, append_byte_toNat]
  omega

theorem le32_toNat (a b c d : Byte) :
    (le32 a b c d).toNat = a.toNat + 256 * b.toNat + 65536 * c.toNat + 16777216 * d.toNat := by
  rw [le32, append_byte_toNat, append_byte_toNat, append_byte_toNat]
  omega

@[simp] theorem le16_byteOf (v : Word16) : le16 (byteOf v 0) (byteOf v 1) = v := by
  apply BitVec.eq_of_toNat_eq
  rw [le16_toNat, byteOf_toNat, byteOf_toNat]
  have := v.isLt
  omega

@[simp] theorem le32_byteOf (v : Word32) : le32 (byteOf v 0) (byteOf v 1) (byteOf v 2) (byteOf v 3) = v := by
  apply BitVec.eq_of_toNat_eq
  rw [le32_toNat, byteOf_toNat, byteOf_toNat, byteOf_toNat, byteOf_toNat]
  have := v.isLt
  omega

@[simp] theorem byteOf_le16_0 (a b : Byte) : byteOf (le16 a b) 0 = a := by
  apply BitVec.eq_of_toNat_eq
  rw [byteOf_toNat, le16_toNat]
  have := a.isLt
  have := b.isLt
  omega

@[simp] theorem byteOf_le16_1 (a b : Byte) : byteOf (le16 a b) 1 = b := by
  apply BitVec.eq_of_toNat_eq
  rw [byteOf_toNat, le16_toNat]
  have := a.isLt
  have := b.isLt
  omega

@[simp] theorem byteOf_le32_0 (a b c d : Byte) : byteOf (le32 a b c d) 0 = a := by
  apply BitVec.eq_of_toNat_eq
  rw [byteOf_toNat, le32_toNat]
  have := a.isLt
  have := b.isLt
  have := c.isLt
  have := d.isLt
  omega

@[simp] theorem byteOf_le32_1 (a b c d : Byte) : byteOf (le32 a b c d) 1 = b := by
  apply BitVec.eq_of_toNat_eq
  rw [byteOf_toNat, le32_toNat]
  have := a.isLt
  have := b.isLt
  have := c.isLt
  have := d.isLt
  omega

@[simp] theorem byteOf_le32_2 (a b c d : Byte) : byteOf (le32 a b c d) 2 = c := by
  apply BitVec.eq_of_toNat_eq
  rw [byteOf_toNat, le32_toNat]
  have := a.isLt
  have := b.isLt
  have := c.isLt
  have := d.isLt
  omega

@[simp] theorem byteOf_le32_3 (a b c d : Byte) : byteOf (le32 a b c d) 3 = d := by
  apply BitVec.eq_of_toNat_eq
  rw [byteOf_toNat, le32_toNat]
  have := a.isLt
  have := b.isLt
  have := c.isLt
  have := d.isLt
  omega

/-! ## What an entry stands for -/

/-- The size of a tail's operand field, as a list of `Fetch` sizes. -/
def Tail.sizes (t : Tail) : List Nat :=
  match t with
  | .none _ => []
  | .byte _ => [1]
  | .word _ => [2]
  | .dword _ => [4]

/-- The bytes of a tail's operand field among the four that follow. -/
def Tail.field (t : Tail) (x0 x1 x2 x3 : Byte) : List Byte :=
  match t with
  | .none _ => []
  | .byte _ => [x0]
  | .word _ => [x0, x1]
  | .dword _ => [x0, x1, x2, x3]

/-- After the leading bytes `hd`, the tail completes well-formed instructions that encode to `hd` and the operand field. -/
def Tail.Completes (m : Mode) (w : Width) (hd : List Byte) (t : Tail) : Prop :=
  ∀ x0 x1 x2 x3, (t.read x0 x1 x2 x3).wf m w = true ∧
    (t.read x0 x1 x2 x3).encode = hd ++ t.field x0 x1 x2 x3 ∧
    (t.read x0 x1 x2 x3).fetchSizes = hd.map (fun _ => 1) ++ t.sizes

/-- What an entry of the opcode map stands for. -/
def Entry.Completes (m : Mode) (w : Width) (op : Byte) (e : Entry) : Prop :=
  match e with
  | .single t => t.Completes m w [op]
  | .second table => ∀ sb t, table sb = some t → t.Completes m w [op, sb]

variable {m : Mode} {w : Width}

theorem Tail.completes_none {hd : List Byte} {i : Instr} (hw : i.wf m w = true) (he : i.encode = hd)
    (hs : i.fetchSizes = hd.map fun _ => 1) : (Tail.none i).Completes m w hd :=
  fun _ _ _ _ => ⟨hw, by simpa [Tail.read, Tail.field] using he, by simpa [Tail.read, Tail.sizes] using hs⟩

theorem Tail.completes_byte {hd : List Byte} {k : Byte → Instr} (hw : ∀ x, (k x).wf m w = true)
    (he : ∀ x, (k x).encode = hd ++ [x]) (hs : ∀ x, (k x).fetchSizes = hd.map (fun _ => 1) ++ [1]) :
    (Tail.byte k).Completes m w hd := fun x _ _ _ => ⟨hw x, he x, hs x⟩

theorem Tail.completes_word {hd : List Byte} {k : Word16 → Instr} (hw : ∀ v, (k v).wf m w = true)
    (he : ∀ v, (k v).encode = hd ++ [byteOf v 0, byteOf v 1])
    (hs : ∀ v, (k v).fetchSizes = hd.map (fun _ => 1) ++ [2]) : (Tail.word k).Completes m w hd := by
  intro x0 x1 _ _
  refine ⟨hw _, ?_, hs _⟩
  simpa [Tail.read, Tail.field] using he (le16 x0 x1)

theorem Tail.completes_dword {hd : List Byte} {k : Word32 → Instr} (hw : ∀ v, (k v).wf m w = true)
    (he : ∀ v, (k v).encode = hd ++ [byteOf v 0, byteOf v 1, byteOf v 2, byteOf v 3])
    (hs : ∀ v, (k v).fetchSizes = hd.map (fun _ => 1) ++ [4]) : (Tail.dword k).Completes m w hd := by
  intro x0 x1 x2 x3
  refine ⟨hw _, ?_, hs _⟩
  simpa [Tail.read, Tail.field] using he (le32 x0 x1 x2 x3)

/-- An address field of the width that well-formedness asks for. -/
theorem addrTail_completes {hd : List Byte} {x : Width} {k : Addr → Instr} (hw : ∀ a, (k a).wf m w = (a.width == x))
    (he : ∀ a, (k a).encode = hd ++ a.bytes)
    (hs : ∀ a, (k a).fetchSizes = hd.map (fun _ => 1) ++ [a.width.bytes]) : (addrTail x k).Completes m w hd := by
  cases x with
  | w16 => exact Tail.completes_word (fun v => by rw [hw]; rfl) (fun v => he _) fun v => hs _
  | w32 => exact Tail.completes_dword (fun v => by rw [hw]; rfl) (fun v => he _) fun v => hs _

/-- An immediate field of the width that well-formedness asks for. -/
theorem immTail_completes {hd : List Byte} {x : Width} {k : Imm → Instr} (hw : ∀ a, (k a).wf m w = (a.width == x))
    (he : ∀ a, (k a).encode = hd ++ a.bytes)
    (hs : ∀ a, (k a).fetchSizes = hd.map (fun _ => 1) ++ [a.width.bytes]) : (immTail x k).Completes m w hd := by
  cases x with
  | w16 => exact Tail.completes_word (fun v => by rw [hw]; rfl) (fun v => he _) fun v => hs _
  | w32 => exact Tail.completes_dword (fun v => by rw [hw]; rfl) (fun v => he _) fun v => hs _

/-! ## The second-byte tables, entry by entry (R87 to R91) -/

/-- The second bytes that a table gives an entry to. -/
def entriesOf (table : Byte → Option Tail) : List Byte :=
  ((List.range 256).map fun n => BitVec.ofNat 8 n).filter fun sb => (table sb).isSome

theorem mem_entriesOf {table : Byte → Option Tail} {sb : Byte} {t : Tail} (h : table sb = some t) :
    sb ∈ entriesOf table := by
  simp only [entriesOf, List.mem_filter, List.mem_map, List.mem_range, h, Option.isSome_some, and_true]
  exact ⟨sb.toNat, sb.isLt, by simp⟩

theorem T88_entries : entriesOf T88 =
    [0xC0, 0xC1, 0xC2, 0xC3, 0xC4, 0xC5, 0xC7, 0xC8, 0xC9, 0xCA, 0xCB, 0xCC, 0xCD, 0xCF,
     0xD0, 0xD1, 0xD2, 0xD3, 0xD4, 0xD5, 0xD7, 0xD8, 0xD9, 0xDA, 0xDB, 0xDC, 0xDD, 0xDF,
     0xE0, 0xE1, 0xE2, 0xE3, 0xE4, 0xE5, 0xE7, 0xE8, 0xE9, 0xEA, 0xEB, 0xEC, 0xED, 0xEF,
     0xF8, 0xF9, 0xFA, 0xFB, 0xFC, 0xFD, 0xFF] := by decide +kernel

theorem T8A_entries : entriesOf T8A =
    [0x0D, 0x0E, 0x15, 0x16, 0x1D, 0x1E, 0x25, 0x26, 0x2D, 0x2E, 0x35, 0x36, 0x3D, 0x3E] := by decide +kernel

theorem T8B_entries : entriesOf T8B = [0x0D, 0x0E, 0x15, 0x16, 0x1D, 0x1E] := by decide +kernel

theorem TFE_entries : entriesOf TFE =
    [0x05, 0x06, 0xC0, 0xC1, 0xC2, 0xC3, 0xC4, 0xC5, 0xC6, 0xC7] := by decide +kernel

theorem TFF_entries : entriesOf TFF = [0x05, 0x06] := by decide +kernel

theorem T88_completes {sb : Byte} {t : Tail} (h : T88 sb = some t) : t.Completes m w [0x88, sb] := by
  have hm := mem_entriesOf h
  rw [T88_entries] at hm
  simp only [List.mem_cons, List.not_mem_nil, or_false] at hm
  rcases hm with rfl | rfl | rfl | rfl | rfl | rfl | rfl | rfl | rfl | rfl | rfl | rfl | rfl | rfl | rfl | rfl | rfl |
    rfl | rfl | rfl | rfl | rfl | rfl | rfl | rfl | rfl | rfl | rfl | rfl | rfl | rfl | rfl | rfl | rfl | rfl | rfl |
    rfl | rfl | rfl | rfl | rfl | rfl | rfl | rfl | rfl | rfl | rfl | rfl | rfl <;>
  · cases h
    exact Tail.completes_none rfl rfl rfl

theorem T8A_completes {sb : Byte} {t : Tail} (h : T8A sb = some t) : t.Completes m w [0x8A, sb] := by
  have hm := mem_entriesOf h
  rw [T8A_entries] at hm
  simp only [List.mem_cons, List.not_mem_nil, or_false] at hm
  rcases hm with rfl | rfl | rfl | rfl | rfl | rfl | rfl | rfl | rfl | rfl | rfl | rfl | rfl | rfl <;>
  · cases h
    first
      | exact Tail.completes_word (fun _ => rfl) (fun _ => rfl) fun _ => rfl
      | exact Tail.completes_dword (fun _ => rfl) (fun _ => rfl) fun _ => rfl

theorem T8B_completes {sb : Byte} {t : Tail} (h : T8B sb = some t) : t.Completes m w [0x8B, sb] := by
  have hm := mem_entriesOf h
  rw [T8B_entries] at hm
  simp only [List.mem_cons, List.not_mem_nil, or_false] at hm
  rcases hm with rfl | rfl | rfl | rfl | rfl | rfl <;>
  · cases h
    first
      | exact Tail.completes_word (fun _ => rfl) (fun _ => rfl) fun _ => rfl
      | exact Tail.completes_dword (fun _ => rfl) (fun _ => rfl) fun _ => rfl

theorem TFE_completes {sb : Byte} {t : Tail} (h : TFE sb = some t) : t.Completes m w [0xFE, sb] := by
  have hm := mem_entriesOf h
  rw [TFE_entries] at hm
  simp only [List.mem_cons, List.not_mem_nil, or_false] at hm
  rcases hm with rfl | rfl | rfl | rfl | rfl | rfl | rfl | rfl | rfl | rfl <;>
  · cases h
    first
      | exact Tail.completes_none rfl rfl rfl
      | exact Tail.completes_word (fun _ => rfl) (fun _ => rfl) fun _ => rfl
      | exact Tail.completes_dword (fun _ => rfl) (fun _ => rfl) fun _ => rfl

theorem TFF_completes {sb : Byte} {t : Tail} (h : TFF sb = some t) : t.Completes m w [0xFF, sb] := by
  have hm := mem_entriesOf h
  rw [TFF_entries] at hm
  simp only [List.mem_cons, List.not_mem_nil, or_false] at hm
  rcases hm with rfl | rfl <;>
  · cases h
    first
      | exact Tail.completes_word (fun _ => rfl) (fun _ => rfl) fun _ => rfl
      | exact Tail.completes_dword (fun _ => rfl) (fun _ => rfl) fun _ => rfl

/-! ## The opcode map (R86) -/

theorem mem_of_lookup {l : List (Byte × Entry)} {op : Byte} {e : Entry} (h : l.lookup op = some e) : (op, e) ∈ l := by
  induction l with
  | nil => cases h
  | cons p l ih =>
    obtain ⟨a, b⟩ := p
    rw [List.lookup_cons] at h
    split at h
    · next hab =>
      cases h
      rw [eq_of_beq hab]
      exact List.mem_cons_self
    · exact List.mem_cons_of_mem _ (ih h)

/-- Every entry of the opcode map stands for the bytes that select it. -/
theorem opcodeEntry_completes {op : Byte} {e : Entry} (h : opcodeEntry m w op = some e) : e.Completes m w op := by
  suffices hall : ∀ p ∈ opcodeRows m w, p.2.Completes m w p.1 from hall _ (mem_of_lookup h)
  have none' : ∀ (o : Byte) (i : Instr), i.wf m w = true → i.encode = [o] → i.fetchSizes = [1] →
      (Entry.single (.none i)).Completes m w o := fun o i hw he hs => Tail.completes_none hw he hs
  have byte' : ∀ (o : Byte) (k : Byte → Instr), (∀ x, (k x).wf m w = true) → (∀ x, (k x).encode = [o, x]) →
      (∀ x, (k x).fetchSizes = [1, 1]) → (Entry.single (.byte k)).Completes m w o :=
    fun o k hw he hs => Tail.completes_byte hw he hs
  simp only [opcodeRows, List.forall_mem_append, List.forall_mem_cons, List.not_mem_nil, false_implies, implies_true,
    and_true]
  refine ⟨⟨⟨?_, ?_, ?_, ?_, ?_, ?_, ?_, ?_, ?_, ?_, ?_⟩, ?_, ?_, ?_, ?_, ?_, ?_, ?_, ?_⟩, ?_, ?_, ?_, ?_, ?_, ?_, ?_, ?_⟩
  · exact none' _ _ rfl rfl rfl
  · exact none' _ _ rfl rfl rfl
  · exact none' _ _ rfl rfl rfl
  · exact none' _ _ rfl rfl rfl
  · exact none' _ _ rfl rfl rfl
  · exact fun _ _ => T88_completes
  · exact fun _ _ => T8A_completes
  · exact fun _ _ => T8B_completes
  · exact none' _ _ rfl rfl rfl
  · exact addrTail_completes (hd := [0xA0]) (fun _ => rfl) (fun _ => rfl) fun _ => rfl
  · exact addrTail_completes (hd := [0xA1]) (fun _ => rfl) (fun _ => rfl) fun _ => rfl
  · exact byte' _ _ (fun _ => rfl) (fun _ => rfl) fun _ => rfl
  · exact byte' _ _ (fun _ => rfl) (fun _ => rfl) fun _ => rfl
  · exact byte' _ _ (fun _ => rfl) (fun _ => rfl) fun _ => rfl
  · exact byte' _ _ (fun _ => rfl) (fun _ => rfl) fun _ => rfl
  · exact byte' _ _ (fun _ => rfl) (fun _ => rfl) fun _ => rfl
  · exact byte' _ _ (fun _ => rfl) (fun _ => rfl) fun _ => rfl
  · exact byte' _ _ (fun _ => rfl) (fun _ => rfl) fun _ => rfl
  · exact byte' _ _ (fun _ => rfl) (fun _ => rfl) fun _ => rfl
  · exact immTail_completes (hd := [0xB8]) (fun _ => rfl) (fun _ => rfl) fun _ => rfl
  · exact immTail_completes (hd := [0xB9]) (fun _ => rfl) (fun _ => rfl) fun _ => rfl
  · exact immTail_completes (hd := [0xBA]) (fun _ => rfl) (fun _ => rfl) fun _ => rfl
  · exact immTail_completes (hd := [0xBB]) (fun _ => rfl) (fun _ => rfl) fun _ => rfl
  · exact byte' _ _ (fun _ => rfl) (fun _ => rfl) fun _ => rfl
  · exact none' _ _ rfl rfl rfl
  · exact fun _ _ => TFE_completes
  · exact fun _ _ => TFF_completes

/-! ## Decoding the bytes of an instruction with a second byte -/

/-- What a window with a second-byte opcode and a defined second byte decodes to. -/
theorem decode_second {b : Window} {table : Byte → Option Tail} {t : Tail}
    (ho : opcodeEntry m w b.b0 = some (.second table)) (ht : table b.b1 = some t) :
    decode m w b = .instr (t.read b.b2 b.b3 b.b4 b.b5) := by
  simp only [decode, ho, ht]

variable {op sb : Byte} {table : Byte → Option Tail} {after : List Byte}

theorem decode_second_none {i : Instr} (ho : opcodeEntry m w op = some (.second table))
    (ht : table sb = some (.none i)) (he : i.encode = [op, sb]) :
    decode m w (Window.ofBytes (i.encode ++ after)) = .instr i := by
  rw [he]
  exact decode_second (b := Window.ofBytes ([op, sb] ++ after)) ho ht

theorem decode_second_word {k : Word16 → Instr} {v : Word16} (ho : opcodeEntry m w op = some (.second table))
    (ht : table sb = some (.word k)) (he : (k v).encode = [op, sb, byteOf v 0, byteOf v 1]) :
    decode m w (Window.ofBytes ((k v).encode ++ after)) = .instr (k v) := by
  rw [he]
  exact (decode_second (b := Window.ofBytes ([op, sb, byteOf v 0, byteOf v 1] ++ after)) ho ht).trans
    (congrArg (fun x => Decoded.instr (k x)) (le16_byteOf v))

theorem decode_second_dword {k : Word32 → Instr} {v : Word32} (ho : opcodeEntry m w op = some (.second table))
    (ht : table sb = some (.dword k))
    (he : (k v).encode = [op, sb, byteOf v 0, byteOf v 1, byteOf v 2, byteOf v 3]) :
    decode m w (Window.ofBytes ((k v).encode ++ after)) = .instr (k v) := by
  rw [he]
  exact (decode_second (b := Window.ofBytes ([op, sb, byteOf v 0, byteOf v 1, byteOf v 2, byteOf v 3] ++ after)) ho ht).trans
    (congrArg (fun x => Decoded.instr (k x)) (le32_byteOf v))

end Sys2Proof
end

