-- ==== Sys2Proof/Laws/Exec.lean ====
section
/-!
SUPPORT. What an instruction can do, said once for all constructors; and the small laws of the worker and of the queue of
moves.
-/

namespace Sys2Proof.Machine

/-! ## The worker and the queue -/

/-- A step with a move in the queue. -/
theorem step_cons {s : State} {m : Move} {rest : List Move} (h : s.agenda = m :: rest) :
    step s = perform m { s with agenda := rest } := by
  unfold step
  rw [h]

/-- A step with the queue empty. -/
theorem step_nil {s : State} (h : s.agenda = []) : step s = workerStep s := by
  unfold step
  rw [h]

theorem workerStep_running {s : State} (h : s.halted = false) : workerStep s = dispatch (fetchOpcode s) := by
  unfold workerStep
  rw [h]

theorem workerStep_halted {s : State} (h : s.halted = true) : workerStep s = .next s := by
  unfold workerStep
  rw [h]

/-- Running a tail, with the bytes that complete it read from the fetch path. -/
theorem runTail_eq (t : Tail) (s : State) :
    runTail t s = exec (t.read (fetchAt s 0) (fetchAt s 1) (fetchAt s 2) (fetchAt s 3))
      (match t with
        | .none _ => s
        | .byte _ => advance 1 s
        | .word _ => advance 2 s
        | .dword _ => advance 4 s) := by
  cases t <;> rfl

theorem afterFetch_eip_toNat (s : State) (op : Byte) (n f : Nat) :
    (s.afterFetch op n f).eip.toNat = (s.eip.toNat + n) % Config.memSize := by
  show (BitVec.ofNat 32 _).toNat = _
  rw [BitVec.toNat_ofNat]
  simp only [Config.memSize]
  omega

/-- A state that differs from `s` in `EIP`, `Clock` and `Current` alone, as the fetches leave them. -/
theorem afterFetch_ext {s t : State} {op : Byte} {n f : Nat}
    (h : t = { s with eip := t.eip, clock := t.clock, current := t.current })
    (he : t.eip.toNat = (s.eip.toNat + n) % Config.memSize) (hc : t.clock = s.clock + BitVec.ofNat 64 f)
    (hcur : t.current = op) : t = s.afterFetch op n f := by
  have heip : t.eip = (s.afterFetch op n f).eip := BitVec.eq_of_toNat_eq (by rw [he, afterFetch_eip_toNat])
  rw [h, heip, hc, hcur]
  rfl

/-- A counter that has retired an instruction is not the old one. -/
theorem counter_ne_succ (x : Counter) : x ≠ x + 1 := by
  intro h
  have := congrArg BitVec.toNat h
  rw [BitVec.toNat_add] at this
  have := x.isLt
  have : (1 : Counter).toNat = 1 := rfl
  omega

/-! ## What an instruction can do -/

/-- The instructions that store to memory (R4, R60). -/
def storesMemory (i : Instr) : Bool :=
  match i with
  | .incByteA16 _ | .incByteA32 _ | .incWordA16 _ | .incWordA32 _ => true
  | _ => false

/-- The instruction, dispatched in this state, makes no access outside the store. -/
def AccessInside (i : Instr) (s : State) : Prop :=
  ∀ a n, accessOf s.width i = some (a, n) → (effective a).toNat + n ≤ Config.memSize

theorem accessInside_of_none {i : Instr} {s : State} (h : accessOf s.width i = none) : AccessInside i s := by
  intro a n ha
  rw [h] at ha
  cases ha

theorem accessInside_of_some {i : Instr} {s : State} {a : Addr} {n : Nat} (h : accessOf s.width i = some (a, n))
    (hin : (effective a).toNat + n ≤ Config.memSize) : AccessInside i s := by
  intro b m hb
  rw [h] at hb
  cases hb
  exact hin

/-- An access of the operand width, once the width is known. -/
theorem access_of_width {i : Instr} {s : State} {w : Width} {a : Addr}
    (h : accessOf s.width i = some (a, widthBytes s.width)) (hw : s.width = w) :
    accessOf s.width i = some (a, widthBytes w) := by rw [h, hw]

/-- All that an instruction can do to a state: change registers with encoding numbers, store at its address operand, take
`MemoryFault` there, jump, or halt; all but the failure with the epilogue, and only when its access lies in the store. -/
inductive Effect (i : Instr) (s : State) : State → Prop where
  | regs (g : Regs) (unreached : g.esp = s.regs.esp ∧ g.ebp = s.regs.ebp ∧ g.esi = s.regs.esi ∧ g.edi = s.regs.edi)
      (inside : AccessInside i s) (notHlt : i ≠ .hlt) : Effect i s (epilogue { s with regs := g })
  | store (a : Addr) (n : Nat) (u : State) (stored : Stored (effective a) n s u) (access : accessOf s.width i = some (a, n))
      (notHlt : i ≠ .hlt) (stores : storesMemory i = true) : Effect i s (epilogue u)
  | fault (a : Addr) (n : Nat) (access : accessOf s.width i = some (a, n))
      (outside : Config.memSize < (effective a).toNat + n) (notHlt : i ≠ .hlt) :
      Effect i s (raise (.memoryFault (effective a)) s)
  | jump {v : Byte} (isJump : i = .jmpRel8 v) : Effect i s (epilogue { s with eip := jumpTarget s.eip v })
  | halt (isHlt : i = .hlt) : Effect i s (epilogue { s with halted := true })

variable {i : Instr} {s t : State}

theorem noOperation_effect (h : noOperation s = .next t) (hi : i ≠ .hlt) (ha : accessOf s.width i = none) :
    Effect i s t :=
  noOperation_next h ▸ .regs s.regs ⟨rfl, rfl, rfl, rfl⟩ (accessInside_of_none ha) hi

theorem incGpr_effect {r : Reg8} (h : incGpr (parent r) s = .next t) (hi : i ≠ .hlt)
    (ha : accessOf s.width i = none) : Effect i s t := by
  rcases incGpr_next h with ⟨-, rfl⟩ | ⟨-, rfl⟩
  · exact .regs _ (Regs.set_parent_unnumbered _ r _) (accessInside_of_none ha) hi
  · exact .regs _ (Regs.set_parent_unnumbered _ r _) (accessInside_of_none ha) hi

theorem incReg8_effect {r : Reg8} (h : incReg8 r s = .next t) (hi : i ≠ .hlt) (ha : accessOf s.width i = none) :
    Effect i s t := by
  rw [incReg8_next h]
  exact .regs _ (Regs.set_parent_unnumbered _ r _) (accessInside_of_none ha) hi

theorem movReg8_effect {d r : Reg8} (h : movReg8 d r s = .next t) (hi : i ≠ .hlt) (ha : accessOf s.width i = none) :
    Effect i s t := by
  rw [movReg8_next h]
  exact .regs _ (Regs.set_parent_unnumbered _ d _) (accessInside_of_none ha) hi

theorem movImm8_effect {d : Reg8} {v : Byte} (h : movImm8 d v s = .next t) (hi : i ≠ .hlt)
    (ha : accessOf s.width i = none) : Effect i s t := by
  rw [movImm8_next h]
  exact .regs _ (Regs.set_parent_unnumbered _ d _) (accessInside_of_none ha) hi

theorem movImm_effect {r : Reg8} {v : Imm} (h : movImm (parent r) v s = .next t) (hi : i ≠ .hlt)
    (ha : accessOf s.width i = none) : Effect i s t := by
  rcases movImm_next h with ⟨_, -, rfl⟩ | ⟨_, -, rfl⟩
  · exact .regs _ (Regs.set_parent_unnumbered _ r _) (accessInside_of_none ha) hi
  · exact .regs _ (Regs.set_parent_unnumbered _ r _) (accessInside_of_none ha) hi

theorem loadReg8_effect {d : Reg8} {a : Addr} (h : loadReg8 d a s = .next t) (hi : i ≠ .hlt)
    (ha : accessOf s.width i = some (a, 1)) : Effect i s t := by
  rcases loadReg8_next h with ⟨hin, rfl⟩ | ⟨hout, rfl⟩
  · exact .regs _ (Regs.set_parent_unnumbered _ d _) (accessInside_of_some ha hin) hi
  · exact .fault a 1 ha hout hi

theorem loadGpr_effect {r : Reg8} {a : Addr} (h : loadGpr (parent r) a s = .next t) (hi : i ≠ .hlt)
    (ha : accessOf s.width i = some (a, widthBytes s.width)) : Effect i s t := by
  rcases loadGpr_next h with ⟨hw, _, hr, rfl⟩ | ⟨hw, _, hr, rfl⟩ | ⟨hw, hout, rfl⟩ | ⟨hw, hout, rfl⟩
  · exact .regs _ (Regs.set_parent_unnumbered _ r _) (accessInside_of_some (access_of_width ha hw) (readWordAt_inside hr)) hi
  · exact .regs _ (Regs.set_parent_unnumbered _ r _) (accessInside_of_some (access_of_width ha hw) (readDwordAt_inside hr)) hi
  · exact .fault a 2 (access_of_width ha hw) hout hi
  · exact .fault a 4 (access_of_width ha hw) hout hi

theorem incMemByte_effect {a : Addr} (h : incMemByte a s = .next t) (hi : i ≠ .hlt)
    (ha : accessOf s.width i = some (a, 1)) (hs : storesMemory i = true) : Effect i s t := by
  rcases incMemByte_next h with ⟨u, hu, rfl⟩ | ⟨hout, rfl⟩
  · exact .store a 1 u (writeByteAt_stored hu) ha hi hs
  · exact .fault a 1 ha hout hi

theorem incMemW_effect {a : Addr} (h : incMemW a s = .next t) (hi : i ≠ .hlt)
    (ha : accessOf s.width i = some (a, widthBytes s.width)) (hs : storesMemory i = true) : Effect i s t := by
  rcases incMemW_next h with ⟨hw, _, u, -, hu, rfl⟩ | ⟨hw, _, u, -, hu, rfl⟩ | ⟨hw, hout, rfl⟩ | ⟨hw, hout, rfl⟩
  · exact .store a 2 u (writeWordAt_stored hu) (access_of_width ha hw) hi hs
  · exact .store a 4 u (writeDwordAt_stored hu) (access_of_width ha hw) hi hs
  · exact .fault a 2 (access_of_width ha hw) hout hi
  · exact .fault a 4 (access_of_width ha hw) hout hi

/-- Every next state of an instruction is one of the effects. -/
theorem exec_effect (h : exec i s = .next t) : Effect i s t := by
  exact match i, h with
  | .incAx, h => incGpr_effect (r := .al) h nofun rfl
  | .incCx, h => incGpr_effect (r := .cl) h nofun rfl
  | .incDx, h => incGpr_effect (r := .dl) h nofun rfl
  | .incBx, h => incGpr_effect (r := .bl) h nofun rfl
  | .opsize, h => noOperation_effect h nofun rfl
  | .movAlAl, h => movReg8_effect h nofun rfl
  | .movAlCl, h => movReg8_effect h nofun rfl
  | .movAlDl, h => movReg8_effect h nofun rfl
  | .movAlBl, h => movReg8_effect h nofun rfl
  | .movAlAh, h => movReg8_effect h nofun rfl
  | .movAlCh, h => movReg8_effect h nofun rfl
  | .movAlBh, h => movReg8_effect h nofun rfl
  | .movClAl, h => movReg8_effect h nofun rfl
  | .movClCl, h => movReg8_effect h nofun rfl
  | .movClDl, h => movReg8_effect h nofun rfl
  | .movClBl, h => movReg8_effect h nofun rfl
  | .movClAh, h => movReg8_effect h nofun rfl
  | .movClCh, h => movReg8_effect h nofun rfl
  | .movClBh, h => movReg8_effect h nofun rfl
  | .movDlAl, h => movReg8_effect h nofun rfl
  | .movDlCl, h => movReg8_effect h nofun rfl
  | .movDlDl, h => movReg8_effect h nofun rfl
  | .movDlBl, h => movReg8_effect h nofun rfl
  | .movDlAh, h => movReg8_effect h nofun rfl
  | .movDlCh, h => movReg8_effect h nofun rfl
  | .movDlBh, h => movReg8_effect h nofun rfl
  | .movBlAl, h => movReg8_effect h nofun rfl
  | .movBlCl, h => movReg8_effect h nofun rfl
  | .movBlDl, h => movReg8_effect h nofun rfl
  | .movBlBl, h => movReg8_effect h nofun rfl
  | .movBlAh, h => movReg8_effect h nofun rfl
  | .movBlCh, h => movReg8_effect h nofun rfl
  | .movBlBh, h => movReg8_effect h nofun rfl
  | .movAhAl, h => movReg8_effect h nofun rfl
  | .movAhCl, h => movReg8_effect h nofun rfl
  | .movAhDl, h => movReg8_effect h nofun rfl
  | .movAhBl, h => movReg8_effect h nofun rfl
  | .movAhAh, h => movReg8_effect h nofun rfl
  | .movAhCh, h => movReg8_effect h nofun rfl
  | .movAhBh, h => movReg8_effect h nofun rfl
  | .movChAl, h => movReg8_effect h nofun rfl
  | .movChCl, h => movReg8_effect h nofun rfl
  | .movChDl, h => movReg8_effect h nofun rfl
  | .movChBl, h => movReg8_effect h nofun rfl
  | .movChAh, h => movReg8_effect h nofun rfl
  | .movChCh, h => movReg8_effect h nofun rfl
  | .movChBh, h => movReg8_effect h nofun rfl
  | .movBhAl, h => movReg8_effect h nofun rfl
  | .movBhCl, h => movReg8_effect h nofun rfl
  | .movBhDl, h => movReg8_effect h nofun rfl
  | .movBhBl, h => movReg8_effect h nofun rfl
  | .movBhAh, h => movReg8_effect h nofun rfl
  | .movBhCh, h => movReg8_effect h nofun rfl
  | .movBhBh, h => movReg8_effect h nofun rfl
  | .movClA16 _, h => loadReg8_effect h nofun rfl
  | .movClA32 _, h => loadReg8_effect h nofun rfl
  | .movDlA16 _, h => loadReg8_effect h nofun rfl
  | .movDlA32 _, h => loadReg8_effect h nofun rfl
  | .movBlA16 _, h => loadReg8_effect h nofun rfl
  | .movBlA32 _, h => loadReg8_effect h nofun rfl
  | .movAhA16 _, h => loadReg8_effect h nofun rfl
  | .movAhA32 _, h => loadReg8_effect h nofun rfl
  | .movChA16 _, h => loadReg8_effect h nofun rfl
  | .movChA32 _, h => loadReg8_effect h nofun rfl
  | .movDhA16 _, h => loadReg8_effect h nofun rfl
  | .movDhA32 _, h => loadReg8_effect h nofun rfl
  | .movBhA16 _, h => loadReg8_effect h nofun rfl
  | .movBhA32 _, h => loadReg8_effect h nofun rfl
  | .movCxA16 _, h => loadGpr_effect (r := .cl) h nofun rfl
  | .movCxA32 _, h => loadGpr_effect (r := .cl) h nofun rfl
  | .movDxA16 _, h => loadGpr_effect (r := .dl) h nofun rfl
  | .movDxA32 _, h => loadGpr_effect (r := .dl) h nofun rfl
  | .movBxA16 _, h => loadGpr_effect (r := .bl) h nofun rfl
  | .movBxA32 _, h => loadGpr_effect (r := .bl) h nofun rfl
  | .nop, h => noOperation_effect h nofun rfl
  | .movAlAddr _, h => loadReg8_effect h nofun rfl
  | .movAxAddr _, h => loadGpr_effect (r := .al) h nofun rfl
  | .movAlImm8 _, h => movImm8_effect h nofun rfl
  | .movClImm8 _, h => movImm8_effect h nofun rfl
  | .movDlImm8 _, h => movImm8_effect h nofun rfl
  | .movBlImm8 _, h => movImm8_effect h nofun rfl
  | .movAhImm8 _, h => movImm8_effect h nofun rfl
  | .movChImm8 _, h => movImm8_effect h nofun rfl
  | .movDhImm8 _, h => movImm8_effect h nofun rfl
  | .movBhImm8 _, h => movImm8_effect h nofun rfl
  | .movAxImm _, h => movImm_effect (r := .al) h nofun rfl
  | .movCxImm _, h => movImm_effect (r := .cl) h nofun rfl
  | .movDxImm _, h => movImm_effect (r := .dl) h nofun rfl
  | .movBxImm _, h => movImm_effect (r := .bl) h nofun rfl
  | .jmpRel8 _, h => jump_next h ▸ .jump rfl
  | .hlt, h => halt_next h ▸ .halt rfl
  | .incByteA16 _, h => incMemByte_effect h nofun rfl rfl
  | .incByteA32 _, h => incMemByte_effect h nofun rfl rfl
  | .incAl, h => incReg8_effect h nofun rfl
  | .incCl, h => incReg8_effect h nofun rfl
  | .incDl, h => incReg8_effect h nofun rfl
  | .incBl, h => incReg8_effect h nofun rfl
  | .incAh, h => incReg8_effect h nofun rfl
  | .incCh, h => incReg8_effect h nofun rfl
  | .incDh, h => incReg8_effect h nofun rfl
  | .incBh, h => incReg8_effect h nofun rfl
  | .incWordA16 _, h => incMemW_effect h nofun rfl rfl
  | .incWordA32 _, h => incMemW_effect h nofun rfl rfl

/-- Every instruction answers a next state in every state. -/
theorem exec_answers (i : Instr) (s : State) : ∃ t, exec i s = .next t := by
  exact match i with
  | .incAx => incGpr_answers _ _
  | .incCx => incGpr_answers _ _
  | .incDx => incGpr_answers _ _
  | .incBx => incGpr_answers _ _
  | .opsize => noOperation_answers _
  | .movAlAl => movReg8_answers _ _ _
  | .movAlCl => movReg8_answers _ _ _
  | .movAlDl => movReg8_answers _ _ _
  | .movAlBl => movReg8_answers _ _ _
  | .movAlAh => movReg8_answers _ _ _
  | .movAlCh => movReg8_answers _ _ _
  | .movAlBh => movReg8_answers _ _ _
  | .movClAl => movReg8_answers _ _ _
  | .movClCl => movReg8_answers _ _ _
  | .movClDl => movReg8_answers _ _ _
  | .movClBl => movReg8_answers _ _ _
  | .movClAh => movReg8_answers _ _ _
  | .movClCh => movReg8_answers _ _ _
  | .movClBh => movReg8_answers _ _ _
  | .movDlAl => movReg8_answers _ _ _
  | .movDlCl => movReg8_answers _ _ _
  | .movDlDl => movReg8_answers _ _ _
  | .movDlBl => movReg8_answers _ _ _
  | .movDlAh => movReg8_answers _ _ _
  | .movDlCh => movReg8_answers _ _ _
  | .movDlBh => movReg8_answers _ _ _
  | .movBlAl => movReg8_answers _ _ _
  | .movBlCl => movReg8_answers _ _ _
  | .movBlDl => movReg8_answers _ _ _
  | .movBlBl => movReg8_answers _ _ _
  | .movBlAh => movReg8_answers _ _ _
  | .movBlCh => movReg8_answers _ _ _
  | .movBlBh => movReg8_answers _ _ _
  | .movAhAl => movReg8_answers _ _ _
  | .movAhCl => movReg8_answers _ _ _
  | .movAhDl => movReg8_answers _ _ _
  | .movAhBl => movReg8_answers _ _ _
  | .movAhAh => movReg8_answers _ _ _
  | .movAhCh => movReg8_answers _ _ _
  | .movAhBh => movReg8_answers _ _ _
  | .movChAl => movReg8_answers _ _ _
  | .movChCl => movReg8_answers _ _ _
  | .movChDl => movReg8_answers _ _ _
  | .movChBl => movReg8_answers _ _ _
  | .movChAh => movReg8_answers _ _ _
  | .movChCh => movReg8_answers _ _ _
  | .movChBh => movReg8_answers _ _ _
  | .movBhAl => movReg8_answers _ _ _
  | .movBhCl => movReg8_answers _ _ _
  | .movBhDl => movReg8_answers _ _ _
  | .movBhBl => movReg8_answers _ _ _
  | .movBhAh => movReg8_answers _ _ _
  | .movBhCh => movReg8_answers _ _ _
  | .movBhBh => movReg8_answers _ _ _
  | .movClA16 _ => loadReg8_answers _ _ _
  | .movClA32 _ => loadReg8_answers _ _ _
  | .movDlA16 _ => loadReg8_answers _ _ _
  | .movDlA32 _ => loadReg8_answers _ _ _
  | .movBlA16 _ => loadReg8_answers _ _ _
  | .movBlA32 _ => loadReg8_answers _ _ _
  | .movAhA16 _ => loadReg8_answers _ _ _
  | .movAhA32 _ => loadReg8_answers _ _ _
  | .movChA16 _ => loadReg8_answers _ _ _
  | .movChA32 _ => loadReg8_answers _ _ _
  | .movDhA16 _ => loadReg8_answers _ _ _
  | .movDhA32 _ => loadReg8_answers _ _ _
  | .movBhA16 _ => loadReg8_answers _ _ _
  | .movBhA32 _ => loadReg8_answers _ _ _
  | .movCxA16 _ => loadGpr_answers _ _ _
  | .movCxA32 _ => loadGpr_answers _ _ _
  | .movDxA16 _ => loadGpr_answers _ _ _
  | .movDxA32 _ => loadGpr_answers _ _ _
  | .movBxA16 _ => loadGpr_answers _ _ _
  | .movBxA32 _ => loadGpr_answers _ _ _
  | .nop => noOperation_answers _
  | .movAlAddr _ => loadReg8_answers _ _ _
  | .movAxAddr _ => loadGpr_answers _ _ _
  | .movAlImm8 _ => movImm8_answers _ _ _
  | .movClImm8 _ => movImm8_answers _ _ _
  | .movDlImm8 _ => movImm8_answers _ _ _
  | .movBlImm8 _ => movImm8_answers _ _ _
  | .movAhImm8 _ => movImm8_answers _ _ _
  | .movChImm8 _ => movImm8_answers _ _ _
  | .movDhImm8 _ => movImm8_answers _ _ _
  | .movBhImm8 _ => movImm8_answers _ _ _
  | .movAxImm _ => movImm_answers _ _ _
  | .movCxImm _ => movImm_answers _ _ _
  | .movDxImm _ => movImm_answers _ _ _
  | .movBxImm _ => movImm_answers _ _ _
  | .jmpRel8 _ => jump_answers _ _
  | .hlt => halt_answers _
  | .incByteA16 _ => incMemByte_answers _ _
  | .incByteA32 _ => incMemByte_answers _ _
  | .incAl => incReg8_answers _ _
  | .incCl => incReg8_answers _ _
  | .incDl => incReg8_answers _ _
  | .incBl => incReg8_answers _ _
  | .incAh => incReg8_answers _ _
  | .incCh => incReg8_answers _ _
  | .incDh => incReg8_answers _ _
  | .incBh => incReg8_answers _ _
  | .incWordA16 _ => incMemW_answers _ _
  | .incWordA32 _ => incMemW_answers _ _

end Sys2Proof.Machine
end

