-- ==== Sys2Proof/Laws/PerInstr.lean ====
section
/-!
SUPPORT. Families of statements about every instruction as syntax, one lemma for each constructor.
-/

/-- An instruction's encoding has exactly the bytes its `Fetch` calls read (spec/30_encoding.md R85), 1 to 6 of them, and 1
to 3 calls (R80). -/
def Sys2Proof.Laws.EncodedSize.Statement (i : Sys2Proof.Instr) : Prop :=
  i.encode.length = i.length ∧ 1 ≤ i.length ∧ i.length ≤ 6 ∧ 1 ≤ i.fetches ∧ i.fetches ≤ 3

namespace Sys2Proof.Laws.EncodedSize

/-- The statement from the list of fetch sizes. -/
theorem of_sizes {i : Instr} (l : List Nat) (henc : i.encode.length = l.sum) (hsz : i.fetchSizes = l)
    (hl : 1 ≤ l.sum ∧ l.sum ≤ 6 ∧ 1 ≤ l.length ∧ l.length ≤ 3) : Statement i := by
  unfold Statement Instr.length Instr.fetches
  rw [hsz]
  exact ⟨henc, hl⟩

theorem incAx : Statement .incAx := of_sizes [1] rfl rfl (by decide)
theorem incCx : Statement .incCx := of_sizes [1] rfl rfl (by decide)
theorem incDx : Statement .incDx := of_sizes [1] rfl rfl (by decide)
theorem incBx : Statement .incBx := of_sizes [1] rfl rfl (by decide)
theorem opsize : Statement .opsize := of_sizes [1] rfl rfl (by decide)
theorem movAlAl : Statement .movAlAl := of_sizes [1, 1] rfl rfl (by decide)
theorem movAlCl : Statement .movAlCl := of_sizes [1, 1] rfl rfl (by decide)
theorem movAlDl : Statement .movAlDl := of_sizes [1, 1] rfl rfl (by decide)
theorem movAlBl : Statement .movAlBl := of_sizes [1, 1] rfl rfl (by decide)
theorem movAlAh : Statement .movAlAh := of_sizes [1, 1] rfl rfl (by decide)
theorem movAlCh : Statement .movAlCh := of_sizes [1, 1] rfl rfl (by decide)
theorem movAlBh : Statement .movAlBh := of_sizes [1, 1] rfl rfl (by decide)
theorem movClAl : Statement .movClAl := of_sizes [1, 1] rfl rfl (by decide)
theorem movClCl : Statement .movClCl := of_sizes [1, 1] rfl rfl (by decide)
theorem movClDl : Statement .movClDl := of_sizes [1, 1] rfl rfl (by decide)
theorem movClBl : Statement .movClBl := of_sizes [1, 1] rfl rfl (by decide)
theorem movClAh : Statement .movClAh := of_sizes [1, 1] rfl rfl (by decide)
theorem movClCh : Statement .movClCh := of_sizes [1, 1] rfl rfl (by decide)
theorem movClBh : Statement .movClBh := of_sizes [1, 1] rfl rfl (by decide)
theorem movDlAl : Statement .movDlAl := of_sizes [1, 1] rfl rfl (by decide)
theorem movDlCl : Statement .movDlCl := of_sizes [1, 1] rfl rfl (by decide)
theorem movDlDl : Statement .movDlDl := of_sizes [1, 1] rfl rfl (by decide)
theorem movDlBl : Statement .movDlBl := of_sizes [1, 1] rfl rfl (by decide)
theorem movDlAh : Statement .movDlAh := of_sizes [1, 1] rfl rfl (by decide)
theorem movDlCh : Statement .movDlCh := of_sizes [1, 1] rfl rfl (by decide)
theorem movDlBh : Statement .movDlBh := of_sizes [1, 1] rfl rfl (by decide)
theorem movBlAl : Statement .movBlAl := of_sizes [1, 1] rfl rfl (by decide)
theorem movBlCl : Statement .movBlCl := of_sizes [1, 1] rfl rfl (by decide)
theorem movBlDl : Statement .movBlDl := of_sizes [1, 1] rfl rfl (by decide)
theorem movBlBl : Statement .movBlBl := of_sizes [1, 1] rfl rfl (by decide)
theorem movBlAh : Statement .movBlAh := of_sizes [1, 1] rfl rfl (by decide)
theorem movBlCh : Statement .movBlCh := of_sizes [1, 1] rfl rfl (by decide)
theorem movBlBh : Statement .movBlBh := of_sizes [1, 1] rfl rfl (by decide)
theorem movAhAl : Statement .movAhAl := of_sizes [1, 1] rfl rfl (by decide)
theorem movAhCl : Statement .movAhCl := of_sizes [1, 1] rfl rfl (by decide)
theorem movAhDl : Statement .movAhDl := of_sizes [1, 1] rfl rfl (by decide)
theorem movAhBl : Statement .movAhBl := of_sizes [1, 1] rfl rfl (by decide)
theorem movAhAh : Statement .movAhAh := of_sizes [1, 1] rfl rfl (by decide)
theorem movAhCh : Statement .movAhCh := of_sizes [1, 1] rfl rfl (by decide)
theorem movAhBh : Statement .movAhBh := of_sizes [1, 1] rfl rfl (by decide)
theorem movChAl : Statement .movChAl := of_sizes [1, 1] rfl rfl (by decide)
theorem movChCl : Statement .movChCl := of_sizes [1, 1] rfl rfl (by decide)
theorem movChDl : Statement .movChDl := of_sizes [1, 1] rfl rfl (by decide)
theorem movChBl : Statement .movChBl := of_sizes [1, 1] rfl rfl (by decide)
theorem movChAh : Statement .movChAh := of_sizes [1, 1] rfl rfl (by decide)
theorem movChCh : Statement .movChCh := of_sizes [1, 1] rfl rfl (by decide)
theorem movChBh : Statement .movChBh := of_sizes [1, 1] rfl rfl (by decide)
theorem movBhAl : Statement .movBhAl := of_sizes [1, 1] rfl rfl (by decide)
theorem movBhCl : Statement .movBhCl := of_sizes [1, 1] rfl rfl (by decide)
theorem movBhDl : Statement .movBhDl := of_sizes [1, 1] rfl rfl (by decide)
theorem movBhBl : Statement .movBhBl := of_sizes [1, 1] rfl rfl (by decide)
theorem movBhAh : Statement .movBhAh := of_sizes [1, 1] rfl rfl (by decide)
theorem movBhCh : Statement .movBhCh := of_sizes [1, 1] rfl rfl (by decide)
theorem movBhBh : Statement .movBhBh := of_sizes [1, 1] rfl rfl (by decide)
theorem movClA16 (a : Word16) : Statement (.movClA16 a) := of_sizes [1, 1, 2] rfl rfl (by decide)
theorem movClA32 (a : Word32) : Statement (.movClA32 a) := of_sizes [1, 1, 4] rfl rfl (by decide)
theorem movDlA16 (a : Word16) : Statement (.movDlA16 a) := of_sizes [1, 1, 2] rfl rfl (by decide)
theorem movDlA32 (a : Word32) : Statement (.movDlA32 a) := of_sizes [1, 1, 4] rfl rfl (by decide)
theorem movBlA16 (a : Word16) : Statement (.movBlA16 a) := of_sizes [1, 1, 2] rfl rfl (by decide)
theorem movBlA32 (a : Word32) : Statement (.movBlA32 a) := of_sizes [1, 1, 4] rfl rfl (by decide)
theorem movAhA16 (a : Word16) : Statement (.movAhA16 a) := of_sizes [1, 1, 2] rfl rfl (by decide)
theorem movAhA32 (a : Word32) : Statement (.movAhA32 a) := of_sizes [1, 1, 4] rfl rfl (by decide)
theorem movChA16 (a : Word16) : Statement (.movChA16 a) := of_sizes [1, 1, 2] rfl rfl (by decide)
theorem movChA32 (a : Word32) : Statement (.movChA32 a) := of_sizes [1, 1, 4] rfl rfl (by decide)
theorem movDhA16 (a : Word16) : Statement (.movDhA16 a) := of_sizes [1, 1, 2] rfl rfl (by decide)
theorem movDhA32 (a : Word32) : Statement (.movDhA32 a) := of_sizes [1, 1, 4] rfl rfl (by decide)
theorem movBhA16 (a : Word16) : Statement (.movBhA16 a) := of_sizes [1, 1, 2] rfl rfl (by decide)
theorem movBhA32 (a : Word32) : Statement (.movBhA32 a) := of_sizes [1, 1, 4] rfl rfl (by decide)
theorem movCxA16 (a : Word16) : Statement (.movCxA16 a) := of_sizes [1, 1, 2] rfl rfl (by decide)
theorem movCxA32 (a : Word32) : Statement (.movCxA32 a) := of_sizes [1, 1, 4] rfl rfl (by decide)
theorem movDxA16 (a : Word16) : Statement (.movDxA16 a) := of_sizes [1, 1, 2] rfl rfl (by decide)
theorem movDxA32 (a : Word32) : Statement (.movDxA32 a) := of_sizes [1, 1, 4] rfl rfl (by decide)
theorem movBxA16 (a : Word16) : Statement (.movBxA16 a) := of_sizes [1, 1, 2] rfl rfl (by decide)
theorem movBxA32 (a : Word32) : Statement (.movBxA32 a) := of_sizes [1, 1, 4] rfl rfl (by decide)
theorem nop : Statement .nop := of_sizes [1] rfl rfl (by decide)
theorem movAlAddr (a : Addr) : Statement (.movAlAddr a) := by
  cases a
  · exact of_sizes [1, 2] rfl rfl (by decide)
  · exact of_sizes [1, 4] rfl rfl (by decide)
theorem movAxAddr (a : Addr) : Statement (.movAxAddr a) := by
  cases a
  · exact of_sizes [1, 2] rfl rfl (by decide)
  · exact of_sizes [1, 4] rfl rfl (by decide)
theorem movAlImm8 (v : Byte) : Statement (.movAlImm8 v) := of_sizes [1, 1] rfl rfl (by decide)
theorem movClImm8 (v : Byte) : Statement (.movClImm8 v) := of_sizes [1, 1] rfl rfl (by decide)
theorem movDlImm8 (v : Byte) : Statement (.movDlImm8 v) := of_sizes [1, 1] rfl rfl (by decide)
theorem movBlImm8 (v : Byte) : Statement (.movBlImm8 v) := of_sizes [1, 1] rfl rfl (by decide)
theorem movAhImm8 (v : Byte) : Statement (.movAhImm8 v) := of_sizes [1, 1] rfl rfl (by decide)
theorem movChImm8 (v : Byte) : Statement (.movChImm8 v) := of_sizes [1, 1] rfl rfl (by decide)
theorem movDhImm8 (v : Byte) : Statement (.movDhImm8 v) := of_sizes [1, 1] rfl rfl (by decide)
theorem movBhImm8 (v : Byte) : Statement (.movBhImm8 v) := of_sizes [1, 1] rfl rfl (by decide)
theorem movAxImm (v : Imm) : Statement (.movAxImm v) := by
  cases v
  · exact of_sizes [1, 2] rfl rfl (by decide)
  · exact of_sizes [1, 4] rfl rfl (by decide)
theorem movCxImm (v : Imm) : Statement (.movCxImm v) := by
  cases v
  · exact of_sizes [1, 2] rfl rfl (by decide)
  · exact of_sizes [1, 4] rfl rfl (by decide)
theorem movDxImm (v : Imm) : Statement (.movDxImm v) := by
  cases v
  · exact of_sizes [1, 2] rfl rfl (by decide)
  · exact of_sizes [1, 4] rfl rfl (by decide)
theorem movBxImm (v : Imm) : Statement (.movBxImm v) := by
  cases v
  · exact of_sizes [1, 2] rfl rfl (by decide)
  · exact of_sizes [1, 4] rfl rfl (by decide)
theorem jmpRel8 (v : Byte) : Statement (.jmpRel8 v) := of_sizes [1, 1] rfl rfl (by decide)
theorem hlt : Statement .hlt := of_sizes [1] rfl rfl (by decide)
theorem incByteA16 (a : Word16) : Statement (.incByteA16 a) := of_sizes [1, 1, 2] rfl rfl (by decide)
theorem incByteA32 (a : Word32) : Statement (.incByteA32 a) := of_sizes [1, 1, 4] rfl rfl (by decide)
theorem incAl : Statement .incAl := of_sizes [1, 1] rfl rfl (by decide)
theorem incCl : Statement .incCl := of_sizes [1, 1] rfl rfl (by decide)
theorem incDl : Statement .incDl := of_sizes [1, 1] rfl rfl (by decide)
theorem incBl : Statement .incBl := of_sizes [1, 1] rfl rfl (by decide)
theorem incAh : Statement .incAh := of_sizes [1, 1] rfl rfl (by decide)
theorem incCh : Statement .incCh := of_sizes [1, 1] rfl rfl (by decide)
theorem incDh : Statement .incDh := of_sizes [1, 1] rfl rfl (by decide)
theorem incBh : Statement .incBh := of_sizes [1, 1] rfl rfl (by decide)
theorem incWordA16 (a : Word16) : Statement (.incWordA16 a) := of_sizes [1, 1, 2] rfl rfl (by decide)
theorem incWordA32 (a : Word32) : Statement (.incWordA32 a) := of_sizes [1, 1, 4] rfl rfl (by decide)

end Sys2Proof.Laws.EncodedSize
end

