-- ==== Sys2Proof/Tests/Slice0.lean ====
section
/-!
SUPPORT. The model's own tests. Expected results come from spec/: the second-byte tables and formats (R81, R86 to R91), the
opcode table's `match` numbers, and the vectors of spec/95_test_vectors.md (V, M, K, F, A, S, R). And for every statement of
Certificates/Slice0/Obligations.lean that has hypotheses, a state and operands that meet them together, at the edges of their
ranges.
-/

namespace Sys2Proof.Machine.Test

/-! ## Well-formedness: one ill-formed term for each check -/

theorem test_wf_refuses_a0_address_width :
    Instr.wf .bits16 .w32 (.movAlAddr (.a32 0)) = false ∧ Instr.wf .bits32 .w16 (.movAlAddr (.a16 0)) = false :=
  by decide
theorem test_wf_refuses_a1_address_width :
    Instr.wf .bits32 .w16 (.movAxAddr (.a32 0)) = false ∧ Instr.wf .bits16 .w32 (.movAxAddr (.a16 0)) = false :=
  by decide
theorem test_wf_refuses_ax_immediate_width : Instr.wf .bits32 .w16 (.movAxImm (.i32 0)) = false := by decide
theorem test_wf_refuses_cx_immediate_width : Instr.wf .bits16 .w32 (.movCxImm (.i16 0)) = false := by decide
theorem test_wf_refuses_dx_immediate_width : Instr.wf .bits16 .w16 (.movDxImm (.i32 0)) = false := by decide
theorem test_wf_refuses_bx_immediate_width : Instr.wf .bits32 .w32 (.movBxImm (.i16 0)) = false := by decide
theorem test_wf_accepts :
    Instr.wf .bits16 .w16 (.movAxImm (.i16 0)) = true ∧ Instr.wf .bits16 .w32 (.movAlAddr (.a16 0)) = true := by decide

/-! ## Decoding: a word of every row, written from the formats and tables of spec/30_encoding.md -/

/-- Every row decodes to its instruction, in mode `m` with width `w`. -/
def decodes (m : Mode) (w : Width) (rows : List (List Byte × Instr)) : Bool :=
  rows.all fun r => decide (decode m w (Window.ofBytes r.1) = .instr r.2)

/-- Both modes, both widths. -/
def decodesAlways (rows : List (List Byte × Instr)) : Bool :=
  decodes .bits16 .w16 rows && decodes .bits16 .w32 rows && decodes .bits32 .w16 rows && decodes .bits32 .w32 rows

theorem test_decode_one_byte_and_jmp : decodesAlways
    [([0x40], .incAx), ([0x41], .incCx), ([0x42], .incDx), ([0x43], .incBx), ([0x66], .opsize), ([0x90], .nop),
     ([0xEB, 0xA6], .jmpRel8 0xA6), ([0xF4], .hlt)] = true := by decide

theorem test_decode_mov_r8_r8_first : decodesAlways
    [([0x88, 0xC0], .movAlAl), ([0x88, 0xC8], .movAlCl), ([0x88, 0xD0], .movAlDl), ([0x88, 0xD8], .movAlBl),
     ([0x88, 0xE0], .movAlAh), ([0x88, 0xE8], .movAlCh), ([0x88, 0xF8], .movAlBh), ([0x88, 0xC1], .movClAl),
     ([0x88, 0xC9], .movClCl), ([0x88, 0xD1], .movClDl), ([0x88, 0xD9], .movClBl), ([0x88, 0xE1], .movClAh),
     ([0x88, 0xE9], .movClCh), ([0x88, 0xF9], .movClBh), ([0x88, 0xC2], .movDlAl), ([0x88, 0xCA], .movDlCl),
     ([0x88, 0xD2], .movDlDl), ([0x88, 0xDA], .movDlBl), ([0x88, 0xE2], .movDlAh), ([0x88, 0xEA], .movDlCh),
     ([0x88, 0xFA], .movDlBh), ([0x88, 0xC3], .movBlAl), ([0x88, 0xCB], .movBlCl), ([0x88, 0xD3], .movBlDl),
     ([0x88, 0xDB], .movBlBl)] = true := by decide

theorem test_decode_mov_r8_r8_second : decodesAlways
    [([0x88, 0xE3], .movBlAh), ([0x88, 0xEB], .movBlCh), ([0x88, 0xFB], .movBlBh), ([0x88, 0xC4], .movAhAl),
     ([0x88, 0xCC], .movAhCl), ([0x88, 0xD4], .movAhDl), ([0x88, 0xDC], .movAhBl), ([0x88, 0xE4], .movAhAh),
     ([0x88, 0xEC], .movAhCh), ([0x88, 0xFC], .movAhBh), ([0x88, 0xC5], .movChAl), ([0x88, 0xCD], .movChCl),
     ([0x88, 0xD5], .movChDl), ([0x88, 0xDD], .movChBl), ([0x88, 0xE5], .movChAh), ([0x88, 0xED], .movChCh),
     ([0x88, 0xFD], .movChBh), ([0x88, 0xC7], .movBhAl), ([0x88, 0xCF], .movBhCl), ([0x88, 0xD7], .movBhDl),
     ([0x88, 0xDF], .movBhBl), ([0x88, 0xE7], .movBhAh), ([0x88, 0xEF], .movBhCh), ([0x88, 0xFF], .movBhBh)] = true :=
  by decide

theorem test_decode_mov_r8_addr : decodesAlways
    [([0x8A, 0x0E, 0x34, 0x92], .movClA16 0x9234), ([0x8A, 0x0D, 0x78, 0x56, 0x34, 0x92], .movClA32 0x92345678),
     ([0x8A, 0x16, 0x34, 0x92], .movDlA16 0x9234), ([0x8A, 0x15, 0x78, 0x56, 0x34, 0x92], .movDlA32 0x92345678),
     ([0x8A, 0x1E, 0x34, 0x92], .movBlA16 0x9234), ([0x8A, 0x1D, 0x78, 0x56, 0x34, 0x92], .movBlA32 0x92345678),
     ([0x8A, 0x26, 0x34, 0x92], .movAhA16 0x9234), ([0x8A, 0x25, 0x78, 0x56, 0x34, 0x92], .movAhA32 0x92345678),
     ([0x8A, 0x2E, 0x34, 0x92], .movChA16 0x9234), ([0x8A, 0x2D, 0x78, 0x56, 0x34, 0x92], .movChA32 0x92345678),
     ([0x8A, 0x36, 0x34, 0x92], .movDhA16 0x9234), ([0x8A, 0x35, 0x78, 0x56, 0x34, 0x92], .movDhA32 0x92345678),
     ([0x8A, 0x3E, 0x34, 0x92], .movBhA16 0x9234), ([0x8A, 0x3D, 0x78, 0x56, 0x34, 0x92], .movBhA32 0x92345678)] = true :=
  by decide

theorem test_decode_mov_r32_addr : decodesAlways
    [([0x8B, 0x0E, 0x34, 0x92], .movCxA16 0x9234), ([0x8B, 0x0D, 0x78, 0x56, 0x34, 0x92], .movCxA32 0x92345678),
     ([0x8B, 0x16, 0x34, 0x92], .movDxA16 0x9234), ([0x8B, 0x15, 0x78, 0x56, 0x34, 0x92], .movDxA32 0x92345678),
     ([0x8B, 0x1E, 0x34, 0x92], .movBxA16 0x9234), ([0x8B, 0x1D, 0x78, 0x56, 0x34, 0x92], .movBxA32 0x92345678)] = true :=
  by decide

theorem test_decode_mov_r8_imm8 : decodesAlways
    [([0xB0, 0xA6], .movAlImm8 0xA6), ([0xB1, 0xA6], .movClImm8 0xA6), ([0xB2, 0xA6], .movDlImm8 0xA6),
     ([0xB3, 0xA6], .movBlImm8 0xA6), ([0xB4, 0xA6], .movAhImm8 0xA6), ([0xB5, 0xA6], .movChImm8 0xA6),
     ([0xB6, 0xA6], .movDhImm8 0xA6), ([0xB7, 0xA6], .movBhImm8 0xA6)] = true := by decide

theorem test_decode_inc_r8 : decodesAlways
    [([0xFE, 0x06, 0x34, 0x92], .incByteA16 0x9234), ([0xFE, 0x05, 0x78, 0x56, 0x34, 0x92], .incByteA32 0x92345678),
     ([0xFE, 0xC0], .incAl), ([0xFE, 0xC1], .incCl), ([0xFE, 0xC2], .incDl), ([0xFE, 0xC3], .incBl),
     ([0xFE, 0xC4], .incAh), ([0xFE, 0xC5], .incCh), ([0xFE, 0xC6], .incDh), ([0xFE, 0xC7], .incBh)] = true := by decide

theorem test_decode_inc_word : decodesAlways
    [([0xFF, 0x06, 0x34, 0x92], .incWordA16 0x9234), ([0xFF, 0x05, 0x78, 0x56, 0x34, 0x92], .incWordA32 0x92345678)] = true :=
  by decide

/-- R81, formats OP_AM, OP_AW and OP_IW: the bytes of the operand depend on `Mode` or on W. -/
theorem test_decode_width_dependent :
    decodes .bits16 .w16 [([0xA0, 0x34, 0x92], .movAlAddr (.a16 0x9234))] &&
    decodes .bits16 .w32 [([0xA0, 0x34, 0x92], .movAlAddr (.a16 0x9234))] &&
    decodes .bits32 .w16 [([0xA0, 0x78, 0x56, 0x34, 0x92], .movAlAddr (.a32 0x92345678))] &&
    decodes .bits32 .w16
      [([0xA1, 0x34, 0x92], .movAxAddr (.a16 0x9234)), ([0xB8, 0x34, 0x92], .movAxImm (.i16 0x9234)),
       ([0xB9, 0x34, 0x92], .movCxImm (.i16 0x9234)), ([0xBA, 0x34, 0x92], .movDxImm (.i16 0x9234)),
       ([0xBB, 0x34, 0x92], .movBxImm (.i16 0x9234))] &&
    decodes .bits16 .w32
      [([0xA1, 0x78, 0x56, 0x34, 0x92], .movAxAddr (.a32 0x92345678)),
       ([0xB8, 0x78, 0x56, 0x34, 0x92], .movAxImm (.i32 0x92345678)),
       ([0xB9, 0x78, 0x56, 0x34, 0x92], .movCxImm (.i32 0x92345678)),
       ([0xBA, 0x78, 0x56, 0x34, 0x92], .movDxImm (.i32 0x92345678)),
       ([0xBB, 0x78, 0x56, 0x34, 0x92], .movBxImm (.i32 0x92345678))] = true := by decide

/-- How many second bytes of an opcode have no entry. -/
def reservedCount (op : Byte) : Nat :=
  ((List.range 256).filter fun n =>
    match decode .bits16 .w16 ⟨op, BitVec.ofNat 8 n, 0, 0, 0, 0⟩ with
    | .unsupportedSecondByte _ _ => true
    | _ => false).length

/-- R93: 207, 242, 250, 246 and 254 second bytes without an entry. -/
theorem test_reserved_counts :
    reservedCount 0x88 = 207 ∧ reservedCount 0x8A = 242 ∧ reservedCount 0x8B = 250 ∧ reservedCount 0xFE = 246 ∧
    reservedCount 0xFF = 254 := by decide +kernel

/-- R86: 229 opcode bytes are invalid. -/
theorem test_invalid_count :
    ((List.range 256).filter fun n =>
      match decode .bits16 .w16 ⟨BitVec.ofNat 8 n, 0xC0, 0, 0, 0, 0⟩ with
      | .invalidOpcode _ => true
      | _ => false).length = 229 := by decide +kernel

/-! ## The numbers of spec/opcode_table.json -/

/-- The table's number of a row decodes to the row's instruction, and the first step after reset runs it. -/
def tableRow (nbits w : Nat) (i : Instr) : Bool :=
  decide (decodeTableWord nbits w = some i) &&
  (match step (State.reset.withFetchWord nbits w), exec i ({ State.reset with
      halted := false, started := true, mem := (State.reset.withFetchWord nbits w).mem }.afterFetch
        i.opcode i.length i.fetches) with
    | .next t, .next u => decide (t = u)
    | _, _ => false)

theorem test_table_rows_1 : (List.all
    [(8, 0x40, .incAx), (8, 0x41, .incCx), (8, 0x42, .incDx), (8, 0x43, .incBx), (8, 0x66, .opsize),
     (16, 0x88C0, .movAlAl), (16, 0x88C8, .movAlCl), (16, 0x88D0, .movAlDl), (16, 0x88D8, .movAlBl),
     (16, 0x88E0, .movAlAh), (16, 0x88E8, .movAlCh), (16, 0x88F8, .movAlBh), (16, 0x88C1, .movClAl),
     (16, 0x88C9, .movClCl), (16, 0x88D1, .movClDl), (16, 0x88D9, .movClBl), (16, 0x88E1, .movClAh),
     (16, 0x88E9, .movClCh), (16, 0x88F9, .movClBh), (16, 0x88C2, .movDlAl), (16, 0x88CA, .movDlCl),
     (16, 0x88D2, .movDlDl), (16, 0x88DA, .movDlBl), (16, 0x88E2, .movDlAh), (16, 0x88EA, .movDlCh),
     (16, 0x88FA, .movDlBh)]
    fun r => tableRow r.1 r.2.1 r.2.2) = true := by decide

theorem test_table_rows_2 : (List.all
    [(16, 0x88C3, .movBlAl), (16, 0x88CB, .movBlCl), (16, 0x88D3, .movBlDl), (16, 0x88DB, .movBlBl),
     (16, 0x88E3, .movBlAh), (16, 0x88EB, .movBlCh), (16, 0x88FB, .movBlBh), (16, 0x88C4, .movAhAl),
     (16, 0x88CC, .movAhCl), (16, 0x88D4, .movAhDl), (16, 0x88DC, .movAhBl), (16, 0x88E4, .movAhAh),
     (16, 0x88EC, .movAhCh), (16, 0x88FC, .movAhBh), (16, 0x88C5, .movChAl), (16, 0x88CD, .movChCl),
     (16, 0x88D5, .movChDl), (16, 0x88DD, .movChBl), (16, 0x88E5, .movChAh), (16, 0x88ED, .movChCh),
     (16, 0x88FD, .movChBh), (16, 0x88C7, .movBhAl), (16, 0x88CF, .movBhCl), (16, 0x88D7, .movBhDl),
     (16, 0x88DF, .movBhBl), (16, 0x88E7, .movBhAh)]
    fun r => tableRow r.1 r.2.1 r.2.2) = true := by decide

theorem test_table_rows_3 : (List.all
    [(16, 0x88EF, .movBhCh), (16, 0x88FF, .movBhBh), (16, 0x8A0E, .movClA16 0), (16, 0x8A0D, .movClA32 0),
     (16, 0x8A16, .movDlA16 0), (16, 0x8A15, .movDlA32 0), (16, 0x8A1E, .movBlA16 0), (16, 0x8A1D, .movBlA32 0),
     (16, 0x8A26, .movAhA16 0), (16, 0x8A25, .movAhA32 0), (16, 0x8A2E, .movChA16 0), (16, 0x8A2D, .movChA32 0),
     (16, 0x8A36, .movDhA16 0), (16, 0x8A35, .movDhA32 0), (16, 0x8A3E, .movBhA16 0), (16, 0x8A3D, .movBhA32 0),
     (16, 0x8B0E, .movCxA16 0), (16, 0x8B0D, .movCxA32 0), (16, 0x8B16, .movDxA16 0), (16, 0x8B15, .movDxA32 0),
     (16, 0x8B1E, .movBxA16 0), (16, 0x8B1D, .movBxA32 0), (8, 0x90, .nop), (8, 0xA0, .movAlAddr (.a16 0)),
     (8, 0xA1, .movAxAddr (.a16 0)), (8, 0xB0, .movAlImm8 0)]
    fun r => tableRow r.1 r.2.1 r.2.2) = true := by decide

theorem test_table_rows_4 : (List.all
    [(8, 0xB1, .movClImm8 0), (8, 0xB2, .movDlImm8 0), (8, 0xB3, .movBlImm8 0), (8, 0xB4, .movAhImm8 0),
     (8, 0xB5, .movChImm8 0), (8, 0xB6, .movDhImm8 0), (8, 0xB7, .movBhImm8 0), (8, 0xB8, .movAxImm (.i16 0)),
     (8, 0xB9, .movCxImm (.i16 0)), (8, 0xBA, .movDxImm (.i16 0)), (8, 0xBB, .movBxImm (.i16 0)),
     (8, 0xEB, .jmpRel8 0), (8, 0xF4, .hlt), (16, 0xFE06, .incByteA16 0), (16, 0xFE05, .incByteA32 0),
     (16, 0xFEC0, .incAl), (16, 0xFEC1, .incCl), (16, 0xFEC2, .incDl), (16, 0xFEC3, .incBl), (16, 0xFEC4, .incAh),
     (16, 0xFEC5, .incCh), (16, 0xFEC6, .incDh), (16, 0xFEC7, .incBh), (16, 0xFF06, .incWordA16 0),
     (16, 0xFF05, .incWordA32 0)]
    fun r => tableRow r.1 r.2.1 r.2.2) = true := by decide

/-! ## One step on small states: the vectors of spec/95_test_vectors.md -/

/-- The bytes of a program from an address on, wrapping at the end of the store. -/
def codeAt (a : Nat) (bytes : List Byte) : List Host.Cell :=
  bytes.zipIdx.map fun c => ((a + c.2) % Config.memSize, c.1)

/-- The four registers that programs reach; the others are zero. -/
def regs (eax ecx edx ebx : Word32) : Regs := { Regs.zero with eax := eax, ecx := ecx, edx := edx, ebx := ebx }

/-- A running engine with bytes at `EIP` and other bytes in memory; `lb` is the opcode dispatched before. -/
def running (m : Mode) (lb : Byte) (eip : Word32) (g : Regs) (bytes : List Byte) (cells : List Host.Cell) : State :=
  { State.construct m (Memory.ofCells (codeAt eip.toNat bytes ++ cells)) with
    regs := g, eip := eip, lookback := lb, halted := false, started := true }

/-- The step answers a next state, and it satisfies `p`. -/
def nextIs (s : State) (p : State → Bool) : Bool :=
  match step s with
  | .next t => p t
  | _ => false

/-- One instruction from address 0 completes with these registers, `EIP` and ticks (R85), and these bytes in memory. -/
def completes (m : Mode) (lb : Byte) (g : Regs) (bytes : List Byte) (cells : List Host.Cell)
    (g' : Regs) (eip : Word32) (ticks : Counter) (cells' : List Host.Cell) : Bool :=
  nextIs (running m lb 0 g bytes cells) fun t =>
    decide (t.regs = g') && decide (t.eip = eip) && decide (t.clock = ticks) && decide (t.instr = 1) &&
      decide (t.lookback = bytes.headD 0) && !t.halted && decide (t.fault = none) &&
      cells'.all fun c => decide (t.mem.read c.1 = c.2)

/-- One instruction from address 0 takes `MemoryFault` of `a` (R222): registers kept, no epilogue. -/
def faultsAt (m : Mode) (g : Regs) (bytes : List Byte) (a : Word32) (eip : Word32) (ticks : Counter) : Bool :=
  nextIs (running m 0 0 g bytes []) fun t =>
    decide (t.regs = g) && decide (t.eip = eip) && decide (t.clock = ticks) && decide (t.instr = 0) &&
      decide (t.lookback = 0) && t.halted && decide (t.fault = some (.memoryFault a))

/-- V1 to V7: INC AX/EAX, CX, EDX, BX. -/
theorem test_inc_register :
    (completes .bits16 0 (regs 0x1234FFFF 0 0 0) [0x40] [] (regs 0x12340000 0 0 0) 1 2 [] &&
     completes .bits16 0x66 (regs 0x0000FFFF 0 0 0) [0x40] [] (regs 0x00010000 0 0 0) 1 2 [] &&
     completes .bits32 0 (regs 0xFFFFFFFF 0 0 0) [0x40] [] (regs 0 0 0 0) 1 2 [] &&
     completes .bits32 0x66 (regs 0x1234FFFF 0 0 0) [0x40] [] (regs 0x12340000 0 0 0) 1 2 [] &&
     completes .bits16 0 (regs 0 0xAAAA00FF 0 0) [0x41] [] (regs 0 0xAAAA0100 0 0) 1 2 [] &&
     completes .bits32 0 (regs 0 0 0x7FFFFFFF 0) [0x42] [] (regs 0 0 0x80000000 0) 1 2 [] &&
     completes .bits32 0x66 (regs 0 0 0 0x0001FFFF) [0x43] [] (regs 0 0 0 0x00010000) 1 2 []) = true := by
  decide

/-- V11 to V15 and the worked examples of R139 to R143: INC r8. -/
theorem test_inc_byte_register :
    (completes .bits16 0 (regs 0x123456FF 0 0 0) [0xFE, 0xC0] [] (regs 0x12345600 0 0 0) 2 3 [] &&
     completes .bits16 0x66 (regs 0 0x000000FF 0 0) [0xFE, 0xC1] [] (regs 0 0 0 0) 2 3 [] &&
     completes .bits16 0 (regs 0 0 0xFFFFFFFF 0) [0xFE, 0xC2] [] (regs 0 0 0xFFFFFF00 0) 2 3 [] &&
     completes .bits16 0 (regs 0 0 0 0) [0xFE, 0xC3] [] (regs 0 0 0 1) 2 3 [] &&
     completes .bits16 0 (regs 0x1234FF78 0 0 0) [0xFE, 0xC4] [] (regs 0x12340078 0 0 0) 2 3 [] &&
     completes .bits16 0 (regs 0 0x00000100 0 0) [0xFE, 0xC5] [] (regs 0 0x00000200 0 0) 2 3 [] &&
     completes .bits16 0 (regs 0 0 0x0000FFFF 0) [0xFE, 0xC6] [] (regs 0 0 0x000000FF 0) 2 3 [] &&
     completes .bits16 0 (regs 0 0 0 0xABCD7F00) [0xFE, 0xC7] [] (regs 0 0 0 0xABCD8000) 2 3 []) = true := by
  decide

/-- V16 to V20: INC BYTE [addr]. -/
theorem test_inc_byte_memory :
    (completes .bits16 0 Regs.zero [0xFE, 0x06, 0x20, 0x00] [(0x20, 0x7F), (0x21, 0x55)] Regs.zero 4 4
        [(0x20, 0x80), (0x21, 0x55)] &&
     completes .bits16 0 Regs.zero [0xFE, 0x06, 0x20, 0x00] [(0x20, 0xFF), (0x21, 0x55)] Regs.zero 4 4
        [(0x20, 0x00), (0x21, 0x55)] &&
     completes .bits16 0 Regs.zero [0xFE, 0x05, 0x45, 0x23, 0x01, 0x00] [(0x12345, 0xFF), (0x12346, 0x11)] Regs.zero 6 4
        [(0x12345, 0x00), (0x12346, 0x11)] &&
     completes .bits16 0 Regs.zero [0xFE, 0x05, 0xFF, 0xFF, 0xFF, 0x3F] [(0x3FFFFFFF, 0x01)] Regs.zero 6 4
        [(0x3FFFFFFF, 0x02)] &&
     faultsAt .bits16 Regs.zero [0xFE, 0x05, 0x00, 0x00, 0x00, 0x40] 0x40000000 6 3) = true := by decide

/-- V21 to V28: INC WORD/DWORD [addr]. -/
theorem test_inc_word_memory :
    (completes .bits16 0 Regs.zero [0xFF, 0x06, 0x20, 0x00] [(0x20, 0xFF), (0x21, 0x00), (0x22, 0x77)] Regs.zero 4 4
        [(0x20, 0x00), (0x21, 0x01), (0x22, 0x77)] &&
     completes .bits16 0 Regs.zero [0xFF, 0x06, 0x20, 0x00] [(0x20, 0xFF), (0x21, 0xFF), (0x22, 0x77)] Regs.zero 4 4
        [(0x20, 0x00), (0x21, 0x00), (0x22, 0x77)] &&
     completes .bits16 0x66 Regs.zero [0xFF, 0x06, 0x20, 0x00]
        [(0x20, 0xFF), (0x21, 0xFF), (0x22, 0x77), (0x23, 0x00), (0x24, 0x99)] Regs.zero 4 4
        [(0x20, 0x00), (0x21, 0x00), (0x22, 0x78), (0x23, 0x00), (0x24, 0x99)] &&
     completes .bits32 0 Regs.zero [0xFF, 0x05, 0x00, 0x00, 0x10, 0x00]
        [(0x100000, 0xFF), (0x100001, 0xFF), (0x100002, 0xFF), (0x100003, 0x7F)] Regs.zero 6 4
        [(0x100000, 0x00), (0x100001, 0x00), (0x100002, 0x00), (0x100003, 0x80)] &&
     completes .bits32 0 Regs.zero [0xFF, 0x06, 0xFF, 0xFF]
        [(0xFFFF, 0xFF), (0x10000, 0xFF), (0x10001, 0xFF), (0x10002, 0xFF), (0x10003, 0x42)] Regs.zero 4 4
        [(0xFFFF, 0x00), (0x10000, 0x00), (0x10001, 0x00), (0x10002, 0x00), (0x10003, 0x42)]) = true := by decide

/-- V25 to V27: the last valid word, and the first addresses that straddle the end. -/
theorem test_inc_word_at_the_end :
    (faultsAt .bits16 Regs.zero [0xFF, 0x05, 0xFF, 0xFF, 0xFF, 0x3F] 0x3FFFFFFF 6 3 &&
     faultsAt .bits32 Regs.zero [0xFF, 0x05, 0xFD, 0xFF, 0xFF, 0x3F] 0x3FFFFFFD 6 3 &&
     completes .bits16 0 Regs.zero [0xFF, 0x05, 0xFE, 0xFF, 0xFF, 0x3F] [(0x3FFFFFFE, 0xFF)] Regs.zero 6 4
        [(0x3FFFFFFE, 0x00), (0x3FFFFFFF, 0x01)]) = true := by decide

/-- M1 to M8: MOV r8, r8. -/
theorem test_mov_r8_r8 :
    (completes .bits16 0 (regs 0x1122AB44 0 0 0) [0x88, 0xE0] [] (regs 0x1122ABAB 0 0 0) 2 3 [] &&
     completes .bits16 0 (regs 0x00000005 0xFFFFFFFF 0 0) [0x88, 0xC1] [] (regs 0x00000005 0xFFFFFF05 0 0) 2 3 [] &&
     completes .bits16 0 (regs 0 0 0 0x0000C300) [0x88, 0xFA] [] (regs 0 0 0x000000C3 0x0000C300) 2 3 [] &&
     completes .bits16 0 (regs 0 0x00007700 0 0x11111111) [0x88, 0xEB] [] (regs 0 0x00007700 0 0x11111177) 2 3 [] &&
     completes .bits16 0 (regs 0x12345678 0 0 0) [0x88, 0xC4] [] (regs 0x12347878 0 0 0) 2 3 [] &&
     completes .bits16 0 (regs 0 0 0x000000EE 0) [0x88, 0xD5] [] (regs 0 0x0000EE00 0x000000EE 0) 2 3 [] &&
     completes .bits16 0 (regs 0 0 0 0x000012AB) [0x88, 0xDF] [] (regs 0 0 0 0x0000ABAB) 2 3 [] &&
     completes .bits16 0 (regs 0x12345678 0 0 0) [0x88, 0xC0] [] (regs 0x12345678 0 0 0) 2 3 []) = true := by
  decide

/-- M12 to M18 and M20: MOV r8, [addr]; R172: an instruction that reads its own first byte. -/
theorem test_mov_r8_addr :
    (completes .bits16 0 (regs 0 0xAAAAAAAA 0 0) [0x8A, 0x0E, 0x10, 0x00] [(0x10, 0x5A)] (regs 0 0xAAAAAA5A 0 0) 4 4 [] &&
     completes .bits16 0 Regs.zero [0x8A, 0x15, 0x00, 0x00, 0x02, 0x00] [(0x20000, 0x01)] (regs 0 0 1 0) 6 4 [] &&
     completes .bits16 0 Regs.zero [0x8A, 0x1E, 0x00, 0x00] [] (regs 0 0 0 0x8A) 4 4 [] &&
     completes .bits16 0 (regs 0x11223344 0 0 0) [0x8A, 0x26, 0x30, 0x00] [(0x30, 0xC7)] (regs 0x1122C744 0 0 0) 4 4 [] &&
     completes .bits16 0 Regs.zero [0x8A, 0x2E, 0xFF, 0xFF] [(0xFFFF, 0x42)] (regs 0 0x00004200 0 0) 4 4 [] &&
     completes .bits16 0 (regs 0 0 1 0) [0x8A, 0x36, 0x40, 0x00] [(0x40, 0xFF)] (regs 0 0 0x0000FF01 0) 4 4 [] &&
     faultsAt .bits16 (regs 0 0 0 0x55) [0x8A, 0x3D, 0x00, 0x00, 0x00, 0x40] 0x40000000 6 3 &&
     completes .bits16 0 Regs.zero [0x8A, 0x0D, 0x10, 0x00, 0x00, 0x00] [(0x10, 0x77)] (regs 0 0x77 0 0) 6 4 []) = true := by
  decide

/-- M21 to M25: MOV r16/r32, [addr]. -/
theorem test_mov_r32_addr :
    (let word : List Host.Cell := [(0x20, 0x78), (0x21, 0x56), (0x22, 0x34), (0x23, 0x12)]
     completes .bits16 0 (regs 0 0xFFFFFFFF 0 0) [0x8B, 0x0E, 0x20, 0x00] word (regs 0 0xFFFF5678 0 0) 4 4 [] &&
     completes .bits32 0 Regs.zero [0x8B, 0x16, 0x20, 0x00] word (regs 0 0 0x12345678 0) 4 4 [] &&
     completes .bits16 0x66 Regs.zero [0x8B, 0x1E, 0x20, 0x00] word (regs 0 0 0 0x12345678) 4 4 [] &&
     faultsAt .bits32 (regs 0 0 0 0x99) [0x8B, 0x1D, 0xFE, 0xFF, 0xFF, 0x3F] 0x3FFFFFFE 6 3 &&
     completes .bits16 0 (regs 0 0 0 0x99) [0x8B, 0x1D, 0xFE, 0xFF, 0xFF, 0x3F]
        [(0x3FFFFFFE, 0xCD), (0x3FFFFFFF, 0xAB)] (regs 0 0 0 0x0000ABCD) 6 4 []) = true := by decide

/-- M27 to M30: MOV AL, [addr]; the prefix does not widen the address. -/
theorem test_mov_al_addr :
    (completes .bits16 0 (regs 0x12345678 0 0 0) [0xA0, 0x10, 0x00] [(0x10, 0x99)] (regs 0x12345699 0 0 0) 3 3 [] &&
     completes .bits32 0 (regs 0x12345678 0 0 0) [0xA0, 0x10, 0x00, 0x00, 0x00] [(0x10, 0x99)] (regs 0x12345699 0 0 0) 5 3
        [] &&
     completes .bits16 0x66 (regs 0x12345678 0 0 0) [0xA0, 0x10, 0x00] [(0x10, 0x99)] (regs 0x12345699 0 0 0) 3 3 [] &&
     faultsAt .bits32 Regs.zero [0xA0, 0x00, 0x00, 0x00, 0x80] 0x80000000 5 2) = true := by decide

/-- M31 to M35: MOV AX/EAX, [addr]. -/
theorem test_mov_ax_addr :
    (let word : List Host.Cell := [(0x20, 0x01), (0x21, 0xFF), (0x22, 0x34), (0x23, 0x12)]
     completes .bits16 0 (regs 0xAAAA0000 0 0 0) [0xA1, 0x20, 0x00] word (regs 0xAAAAFF01 0 0 0) 3 3 [] &&
     completes .bits16 0x66 (regs 0xAAAA0000 0 0 0) [0xA1, 0x20, 0x00, 0x00, 0x00] word (regs 0x1234FF01 0 0 0) 5 3 [] &&
     completes .bits32 0 Regs.zero [0xA1, 0x20, 0x00, 0x00, 0x00] word (regs 0x1234FF01 0 0 0) 5 3 [] &&
     completes .bits32 0x66 (regs 0xAAAA0000 0 0 0) [0xA1, 0x20, 0x00] word (regs 0xAAAAFF01 0 0 0) 3 3 [] &&
     faultsAt .bits32 Regs.zero [0xA1, 0xFD, 0xFF, 0xFF, 0x3F] 0x3FFFFFFD 5 2) = true := by decide

/-- M36 to M40 and the worked examples of R184, R185, R188: MOV r8, imm8. -/
theorem test_mov_r8_imm8 :
    (completes .bits16 0 Regs.zero [0xB0, 0x05] [] (regs 5 0 0 0) 2 3 [] &&
     completes .bits16 0 (regs 0 0xFFFFFFFF 0 0) [0xB1, 0x00] [] (regs 0 0xFFFFFF00 0 0) 2 3 [] &&
     completes .bits16 0 Regs.zero [0xB2, 0xFF] [] (regs 0 0 0xFF 0) 2 3 [] &&
     completes .bits16 0 (regs 0 0 0 0x12345678) [0xB3, 0x66] [] (regs 0 0 0 0x12345666) 2 3 [] &&
     completes .bits16 0 (regs 0x12345678 0 0 0) [0xB4, 0xAB] [] (regs 0x1234AB78 0 0 0) 2 3 [] &&
     completes .bits16 0 Regs.zero [0xB5, 0x01] [] (regs 0 0x100 0 0) 2 3 [] &&
     completes .bits16 0 (regs 0 0 0xFFFFFFFF 0) [0xB6, 0x00] [] (regs 0 0 0xFFFF00FF 0) 2 3 [] &&
     completes .bits16 0 (regs 0 0 0 0x000000CD) [0xB7, 0xAB] [] (regs 0 0 0 0x0000ABCD) 2 3 []) = true := by decide

/-- M41 to M44: MOV r16/r32, imm. -/
theorem test_mov_r32_imm :
    (completes .bits16 0 (regs 0x1234ABCD 0 0 0) [0xB8, 0xFF, 0xFF] [] (regs 0x1234FFFF 0 0 0) 3 3 [] &&
     completes .bits32 0 Regs.zero [0xB9, 0x78, 0x56, 0x34, 0x12] [] (regs 0 0x12345678 0 0) 5 3 [] &&
     completes .bits16 0x66 Regs.zero [0xBA, 0x78, 0x56, 0x34, 0x12] [] (regs 0 0 0x12345678 0) 5 3 [] &&
     completes .bits32 0x66 (regs 0 0 0 0xFFFFFFFF) [0xBB, 0x00, 0x00] [] (regs 0 0 0 0xFFFF0000) 3 3 []) = true := by
  decide

/-- K1 and S7: NOP and the prefix only retire. -/
theorem test_nop_and_prefix :
    (completes .bits16 0x66 (regs 1 2 3 4) [0x90] [] (regs 1 2 3 4) 1 2 [] &&
     completes .bits16 0 (regs 1 2 3 4) [0x66] [] (regs 1 2 3 4) 1 2 []) = true := by decide

/-- K2 to K7: the jump's target, its modulus and its bias. -/
theorem test_jump :
    (completes .bits16 0 Regs.zero [0xEB, 0x00] [] Regs.zero 3 3 [] &&
     completes .bits16 0 Regs.zero [0xEB, 0xFF] [] Regs.zero 2 3 [] &&
     nextIs (running .bits16 0 250 Regs.zero [0xEB, 0xFF] []) (fun t => decide (t.eip = 252)) &&
     nextIs (running .bits16 0 254 Regs.zero [0xEB, 0x00] []) (fun t => decide (t.eip = 1)) &&
     nextIs (running .bits16 0 0x001234FA Regs.zero [0xEB, 0xFF] []) (fun t => decide (t.eip = 252)) &&
     nextIs (running .bits16 0 0x3FFFFFFF Regs.zero [0xEB, 0x10] []) (fun t => decide (t.eip = 18))) = true := by
  decide

/-- R212: HLT is counted, and the worker does nothing after it. -/
theorem test_halt :
    nextIs (running .bits16 0 0 Regs.zero [0xF4] []) (fun t =>
      t.halted && decide (t.instr = 1) && decide (t.clock = 2) && decide (t.eip = 1) && decide (t.lookback = 0xF4) &&
        decide (t.fault = none) && nextIs t fun u => decide (u = t)) = true := by decide

/-- K9 to K11: an invalid opcode takes one tick and keeps `Lookback`. -/
theorem test_invalid_opcode :
    nextIs (running .bits16 0x66 1 (regs 1 0 0 0) [0x44] []) (fun t =>
      t.halted && decide (t.fault = some (.invalidOpcode 0x44)) && decide (t.eip = 2) && decide (t.clock = 1) &&
        decide (t.instr = 0) && decide (t.lookback = 0x66) && decide (t.regs = regs 1 0 0 0)) = true := by decide

/-- M9, M10, M19, M26, V29 and V30: second bytes without an entry are refused. -/
theorem test_reserved_second_bytes :
    ([([0x88, 0xF0] : List Byte), [0x88, 0xC6], [0x88, 0x00], [0x8A, 0x06], [0x8B, 0x06], [0xFE, 0xC8], [0xFF, 0xC0]].all
      fun bytes => match step (running .bits16 0 0 Regs.zero bytes []) with
        | .refused (.unsupportedSecondByte op sb) => decide ([op, sb] = bytes)
        | _ => false) = true := by decide

/-- F1 to F3: fetching across the end of the store. -/
theorem test_fetch_wraps :
    (nextIs (running .bits16 0 0x3FFFFFFF Regs.zero [0xB8, 0x34, 0x12] []) (fun t =>
        decide (t.regs.eax = 0x1234) && decide (t.eip = 2)) &&
     nextIs (running .bits32 0 0x3FFFFFFE Regs.zero [0xB8, 0x78, 0x56, 0x34, 0x12] []) (fun t =>
        decide (t.regs.eax = 0x12345678) && decide (t.eip = 3)) &&
     nextIs (running .bits16 0 0x3FFFFFFF Regs.zero [0x40] []) (fun t =>
        decide (t.regs.eax = 1) && decide (t.eip = 0))) = true := by decide

/-- S3: views of a register and writes through them. -/
theorem test_views :
    (regs 0x12345678 0 0 0).get8 .al = 0x78 ∧ (regs 0x12345678 0 0 0).get8 .ah = 0x56 ∧
    (regs 0x12345678 0 0 0).get16 .eax = 0x5678 ∧
    ((((regs 0x12345678 0 0 0).set8 .ah 0xAB).set16 .eax 0xFFFF).set8 .al 0x00) = regs 0x1234FF00 0 0 0 := by
  decide

/-- A2: the sampler's two reads after a run of two instructions and five ticks; A1: `Stop` sets `Halted` alone. -/
theorem test_agents :
    (nextIs { State.reset with instr := 2, clock := 5, agenda := [.sampleInstr] } (fun t =>
        decide (t.instrDelta = 2) && decide (t.instrOld = 2) && decide (t.clockDelta = 0)) &&
     nextIs { State.reset with instr := 2, clock := 5, agenda := [.sampleClock] } (fun t =>
        decide (t.clockDelta = 5) && decide (t.clockOld = 5) && decide (t.instrDelta = 0)) &&
     nextIs { running .bits16 0xEB 0 Regs.zero [0xEB, 0xFD] [] with agenda := [.stop] } (fun t =>
        t.halted && decide (t.fault = none) && decide (t.eip = 0) && decide (t.lookback = 0xEB))) = true := by decide

/-- R25: the worked example for the low word; R52: the worked example for the byte order. -/
theorem test_byte_order :
    (match writeDwordAt 0x20 0x12345678 State.reset with
      | .ok t => decide (t.mem = [(0x20, 0x78), (0x21, 0x56), (0x22, 0x34), (0x23, 0x12)])
      | .error _ => false) = true := by decide

/-! ## Witnesses: the hypotheses of every statement can be met, clause by clause -/

/-- Bytes at `EIP`, by evaluation. -/
theorem bytesAtEip_of_all {s : State} {l : List Byte}
    (h : ((List.range l.length).all fun k =>
      decide (s.mem.read ((s.eip.toNat + k) % Config.memSize) = l.getD k 0)) = true) : BytesAtEip s l := by
  intro k b hk
  obtain ⟨hlt, rfl⟩ := List.getElem?_eq_some_iff.mp hk
  rw [List.all_eq_true] at h
  have := of_decide_eq_true (h k (List.mem_range.mpr hlt))
  rwa [List.getD_eq_getElem?_getD, hk, Option.getD_some] at this

/-- An outcome that is a next state with a property. -/
theorem next_of {s : State} {p : State → Bool} (h : nextIs s p = true) : ∃ t, step s = .next t ∧ p t = true := by
  unfold nextIs at h
  split at h
  · exact ⟨_, ‹_›, h⟩
  · cases h

/-- A running engine with four different registers, no move in the queue, and bytes at `EIP`. -/
def ready (m : Mode) (lb : Byte) (eip : Word32) (bytes : List Byte) : State :=
  running m lb eip (regs 0x11FF33FF 0x55667788 0x99AABBCC 0xDDEEFF00) bytes [(0x100, 0xFF)]

theorem ready_workerNext (m : Mode) (lb : Byte) (eip : Word32) (bytes : List Byte) :
    WorkerNext (ready m lb eip bytes) := ⟨rfl, rfl⟩

/-- The invariant of a running engine with an inner `EIP` and a legal `Lookback`. -/
theorem ready_inv {m : Mode} {lb : Byte} {eip : Word32} {bytes : List Byte} (he : eip.toNat < Config.memSize)
    (hl : lb = Config.initLookback ∨ supportedOpcode lb = true) : (ready m lb eip bytes).Inv :=
  ⟨Memory.ofCells_wf _, he, fun _ => ⟨rfl, rfl⟩, nofun, hl, rfl, rfl, rfl, rfl⟩

theorem witness_DecodeOfEncodeIsTheInstruction :
    Instr.wf .bits16 .w32 (.movAlAddr (.a16 0xFFFF)) = true ∧ Instr.wf .bits32 .w16 (.movAlAddr (.a32 0xFFFFFFFF)) = true ∧
    Instr.wf .bits32 .w16 (.movAxAddr (.a16 0)) = true ∧ Instr.wf .bits16 .w32 (.movBxImm (.i32 0xFFFFFFFF)) = true ∧
    Instr.wf .bits16 .w16 (.incWordA32 0xFFFFFFFF) = true := by decide

theorem witness_DecodedWindowBeginsWithEncoding :
    decode .bits32 .w32 ⟨0xA1, 0x78, 0x56, 0x34, 0x92, 0xF4⟩ = .instr (.movAxAddr (.a32 0x92345678)) := by decide

/-- Both sides, at the edges of the listed ranges. -/
theorem witness_InvalidOpcodesAreExactlyTheUnlisted :
    ([0x00, 0x3F, 0x44, 0x65, 0x67, 0x87, 0x89, 0x8C, 0xBC, 0xEA, 0xEC, 0xF3, 0xF5, 0xFD].all fun b =>
      decide (decode .bits16 .w16 ⟨b, 0, 0, 0, 0, 0⟩ = .invalidOpcode b) && !supportedOpcode b) = true ∧
    ([0x40, 0x43, 0x66, 0x8A, 0x8B, 0xA0, 0xA1, 0xB0, 0xBB, 0xEB, 0xF4, 0xFE, 0xFF].all supportedOpcode) = true := by
  decide

theorem witness_ReservedSecondBytesAreExactlyTheUnlisted :
    ([((0x88 : Byte), (0xC6 : Byte)), (0x88, 0xF7), (0x88, 0xBF), (0x8A, 0x05), (0x8B, 0x26), (0xFE, 0xC8), (0xFF, 0xFF)].all
      fun p => decide (decode .bits32 .w16 ⟨p.1, p.2, 0, 0, 0, 0⟩ = .unsupportedSecondByte p.1 p.2) &&
        takesSecondByte p.1 && !definedSecondByte p.1 p.2) = true := by decide

/-- Both forms of the queue; the instruction's bytes wrap at the end of the store. -/
theorem witness_StepRunsTheDecodedInstruction :
    (let s := ready .bits32 0x66 0x3FFFFFFE [0xB8, 0x34, 0x12]
     s.halted = false ∧ s.agenda = [] ∧ decode s.mode s.width s.window = .instr (.movAxImm (.i16 0x1234))) ∧
    (let s := { ready .bits16 0 0 [0x8A, 0x0D, 0x10, 0x00, 0x00, 0x00] with agenda := [.worker, .stop] }
     s.halted = false ∧ (∃ rest, s.agenda = .worker :: rest) ∧
       decode s.mode s.width s.window = .instr (.movClA32 0x10)) :=
  ⟨⟨rfl, rfl, by decide⟩, rfl, ⟨_, rfl⟩, by decide⟩

/-- Both forms of the queue; the last byte of the store. -/
theorem witness_InvalidOpcodeHaltsTheEngine :
    (let s := ready .bits16 0x66 0x3FFFFFFF [0x0F]
     s.halted = false ∧ s.agenda = [] ∧ BytesAtEip s [0x0F]) ∧
    (let s := { ready .bits16 0x66 0x3FFFFFFF [0x0F] with agenda := [.worker, .stop] }
     s.halted = false ∧ (∃ rest, s.agenda = .worker :: rest) ∧ BytesAtEip s [0x0F]) ∧
    supportedOpcode 0x0F = false :=
  ⟨⟨rfl, rfl, bytesAtEip_of_all (by decide)⟩, ⟨rfl, ⟨_, rfl⟩, bytesAtEip_of_all (by decide)⟩, by decide⟩

/-- Both forms of the queue; the two bytes stand across the end of the store. -/
theorem witness_ReservedSecondByteIsRefused :
    (let s := ready .bits16 0 0x3FFFFFFF [0xFE, 0xC8]
     s.halted = false ∧ s.agenda = [] ∧ BytesAtEip s [0xFE, 0xC8]) ∧
    (let s := { ready .bits16 0 0x3FFFFFFF [0xFE, 0xC8] with agenda := [.worker, .stop] }
     s.halted = false ∧ (∃ rest, s.agenda = .worker :: rest) ∧ BytesAtEip s [0xFE, 0xC8]) ∧
    takesSecondByte 0xFE = true ∧ definedSecondByte 0xFE 0xC8 = false :=
  ⟨⟨rfl, rfl, bytesAtEip_of_all (by decide)⟩, ⟨rfl, ⟨_, rfl⟩, bytesAtEip_of_all (by decide)⟩,
    by decide, by decide⟩

/-- An instruction that completes: what the decoder reads, that the worker answers, and that it has retired. -/
def CompletesAs (s : State) (i : Instr) : Prop :=
  s.halted = false ∧ decode s.mode s.width s.window = .instr i ∧ ∃ t, workerStep s = .next t ∧ t.instr = s.instr + 1

theorem completesAs_of {s : State} {i : Instr} (hh : s.halted = false) (ha : s.agenda = [])
    (hd : decode s.mode s.width s.window = .instr i) (hn : nextIs s (fun t => decide (t.instr = s.instr + 1)) = true) :
    CompletesAs s i := by
  obtain ⟨t, ht, hi⟩ := next_of hn
  exact ⟨hh, hd, t, by rwa [step_nil ha] at ht, of_decide_eq_true hi⟩

/-- One for each length of R85; and the jump. -/
theorem witness_LengthAndTicksOfCompletedInstructions :
    CompletesAs (ready .bits16 0 0x3FFFFFFF [0x40]) .incAx ∧
    CompletesAs (ready .bits16 0 0x3FFFFFFF [0xFE, 0xC0]) .incAl ∧
    CompletesAs (ready .bits16 0 0x3FFFFFFF [0xB8, 0x34, 0x12]) (.movAxImm (.i16 0x1234)) ∧
    CompletesAs (ready .bits16 0 0x3FFFFFFE [0xFF, 0x06, 0x20, 0x00]) (.incWordA16 0x20) ∧
    CompletesAs (ready .bits32 0 0x3FFFFFFC [0xA1, 0xFC, 0xFF, 0xFF, 0x3F]) (.movAxAddr (.a32 0x3FFFFFFC)) ∧
    CompletesAs (ready .bits16 0 0x3FFFFFFB [0xFE, 0x05, 0xFF, 0xFF, 0xFF, 0x3F]) (.incByteA32 0x3FFFFFFF) ∧
    CompletesAs (ready .bits16 0 0x3FFFFFFF [0xEB, 0xFF]) (.jmpRel8 0xFF) := by
  refine ⟨?_, ?_, ?_, ?_, ?_, ?_, ?_⟩ <;> exact completesAs_of rfl rfl (by decide) (by decide)

/-- The four cases: either mode, after the prefix and after another instruction. -/
theorem witness_OverrideLastsForOneInstruction :
    CompletesAs (ready .bits16 0 0 [0x66]) .opsize ∧ CompletesAs (ready .bits16 0x66 0 [0x90]) .nop ∧
    CompletesAs (ready .bits32 0x66 0 [0x66]) .opsize ∧ CompletesAs (ready .bits32 0x66 0 [0x40]) .incAx := by
  refine ⟨?_, ?_, ?_, ?_⟩ <;> exact completesAs_of rfl rfl (by decide) (by decide)

/-- The clauses on `Lookback`: a completed dispatch, a construction, and a step that is neither. -/
theorem witness_SourceInvariantsOfFetchViewsAndLookback :
    CompletesAs (ready .bits16 0x66 0 [0x90]) .nop ∧
    (∃ t, step { ready .bits16 0 0 [0x40] with agenda := [.construct .bits32 []] } = .next t) ∧
    (∃ t, step (ready .bits16 0x66 0 [0x0F]) = .next t) :=
  ⟨completesAs_of rfl rfl (by decide) (by decide), ⟨_, rfl⟩,
    (next_of (p := fun _ => true) (by decide)).imp fun _ h => h.1⟩

/-- A running engine at the end of the store, and one before `Start`. -/
theorem witness_StepKeepsTheInvariant :
    ((ready .bits16 0x66 0x3FFFFFFF [0x40]).Inv ∧ ∃ t, step (ready .bits16 0x66 0x3FFFFFFF [0x40]) = .next t) ∧
    (({ State.reset with agenda := [.load 0x3FFFFFFF 0xFF, .start] } : State).Inv ∧
      ∃ t, step { State.reset with agenda := [.load 0x3FFFFFFF 0xFF, .start] } = .next t) :=
  ⟨⟨ready_inv (by decide) (.inr (by decide)), (next_of (p := fun _ => true) (by decide)).imp fun _ h => h.1⟩,
    ⟨rfl, by decide, nofun, fun _ => ⟨rfl, rfl, rfl, rfl, rfl, rfl⟩, .inl rfl, rfl, rfl, rfl, rfl⟩, ⟨_, rfl⟩⟩

theorem witness_ConstructionMeetsTheInvariant : Memory.wf [(0, 0xFF), (0x3FFFFFFF, 0x01)] = true := by decide

/-- An instruction without an access, and for each size the last address that fits and the first that does not. -/
theorem witness_InstructionsCompleteOrTakeMemoryFault :
    accessOf .w16 .nop = none ∧
    (accessOf .w16 (.movClA32 0x3FFFFFFF) = some (.a32 0x3FFFFFFF, 1) ∧
      (effective (.a32 0x3FFFFFFF)).toNat + 1 ≤ Config.memSize ∧ Config.memSize < (effective (.a32 0x40000000)).toNat + 1) ∧
    (accessOf .w16 (.incWordA32 0x3FFFFFFF) = some (.a32 0x3FFFFFFF, 2) ∧
      (effective (.a32 0x3FFFFFFE)).toNat + 2 ≤ Config.memSize ∧ Config.memSize < (effective (.a32 0x3FFFFFFF)).toNat + 2) ∧
    (accessOf .w32 (.movAxAddr (.a32 0x3FFFFFFD)) = some (.a32 0x3FFFFFFD, 4) ∧
      (effective (.a32 0x3FFFFFFC)).toNat + 4 ≤ Config.memSize ∧ Config.memSize < (effective (.a32 0x3FFFFFFD)).toNat + 4) :=
  ⟨rfl, ⟨rfl, by decide, by decide⟩, ⟨rfl, by decide, by decide⟩, rfl, by decide, by decide⟩

/-- Any instruction in any state; both clauses' conditions. -/
theorem witness_WhatNoInstructionWrites :
    (∃ t, exec .nop State.reset = .next t ∧ Instr.nop ≠ .hlt ∧ t.instr = State.reset.instr + 1 ∧ ∀ v, Instr.nop ≠ .jmpRel8 v) ∧
    (∃ t, exec (.incByteA32 0x40000000) State.reset = .next t) :=
  ⟨⟨_, rfl, by decide, rfl, nofun⟩, exec_answers _ _⟩

theorem witness_OnlyMemoryIncrementsStore :
    (∃ t, exec (.movClA16 0x20) State.reset = .next t) ∧
    (∀ a, Instr.movClA16 0x20 ≠ .incByteA16 a ∧ Instr.movClA16 0x20 ≠ .incWordA16 a) ∧
    (∀ a, Instr.movClA16 0x20 ≠ .incByteA32 a ∧ Instr.movClA16 0x20 ≠ .incWordA32 a) :=
  ⟨exec_answers _ _, fun _ => ⟨nofun, nofun⟩, fun _ => ⟨nofun, nofun⟩⟩

/-- The next byte, and the byte after the end of the store; and for a word and a dword in each address form its last byte, the
operand standing at the end of the store in the 32-bit form. -/
theorem witness_StoredByteIsFetched :
    (let s := ready .bits16 0 0x3FFFFFFF [0x40]
     s.mem.wf = true ∧ (s.eip.toNat + 0) % Config.memSize = (effective (.a32 0x3FFFFFFF)).toNat ∧
       (s.eip.toNat + 1) % Config.memSize = (effective (.a16 0)).toNat) ∧
    (let s := ready .bits16 0 0x3FFFFFFF [0x40]
     s.width = .w16 ∧ (effective (.a32 0x3FFFFFFE)).toNat + 2 ≤ Config.memSize ∧
       (s.eip.toNat + 0) % Config.memSize = (effective (.a32 0x3FFFFFFE)).toNat + 1 ∧
       (s.eip.toNat + 2) % Config.memSize = (effective (.a16 0)).toNat + 1) ∧
    (let s := ready .bits32 0 0x3FFFFFFF [0x40]
     s.width = .w32 ∧ (effective (.a32 0x3FFFFFFC)).toNat + 4 ≤ Config.memSize ∧
       (s.eip.toNat + 0) % Config.memSize = (effective (.a32 0x3FFFFFFC)).toNat + 3 ∧
       (s.eip.toNat + 4) % Config.memSize = (effective (.a16 0)).toNat + 3) :=
  ⟨⟨Memory.ofCells_wf _, by decide, by decide⟩, ⟨rfl, by decide, by decide, by decide⟩, rfl, by decide, by decide,
    by decide⟩

/-- A halted engine: the worker idles, and a construction. -/
theorem witness_HaltedIsTerminal :
    (let s := { ready .bits16 0xF4 1 [0x40] with halted := true }
     s.runState = .halted ∧ ∃ t, step s = .next t) ∧
    (let s := { ready .bits16 0xF4 1 [0x40] with halted := true, agenda := [.construct .bits16 []] }
     s.runState = .halted ∧ (∃ t, step s = .next t) ∧ ∃ m c, s.agenda.head? = some (.construct m c)) :=
  ⟨⟨by decide, ⟨_, rfl⟩⟩, by decide, ⟨_, rfl⟩, ⟨_, _, rfl⟩⟩

/-- A run that ends here, by each of the three causes; the third by a byte, by a word that straddles the end of the store
(0x3FFFFFFF) and, with W = 32, by a dword there (0x3FFFFFFD). -/
theorem witness_CausesOfTheEndOfARun :
    (∀ mb : Mode × List Byte, mb ∈ ([(.bits16, [0xF4]), (.bits16, [0x0F]),
        (.bits16, [0xFE, 0x05, 0x00, 0x00, 0x00, 0x40]), (.bits16, [0xFF, 0x05, 0xFF, 0xFF, 0xFF, 0x3F]),
        (.bits32, [0x8B, 0x0D, 0xFD, 0xFF, 0xFF, 0x3F])] : List (Mode × List Byte)) →
      (ready mb.1 0 0 mb.2).Inv ∧ (ready mb.1 0 0 mb.2).halted = false ∧
        ∃ t, workerStep (ready mb.1 0 0 mb.2) = .next t ∧ t.halted = true) := by
  intro mb h
  have hn : nextIs (ready mb.1 0 0 mb.2) (fun t => t.halted) = true := by
    simp only [List.mem_cons, List.not_mem_nil, or_false] at h
    rcases h with rfl | rfl | rfl | rfl | rfl <;> decide
  exact ⟨ready_inv (by decide) (.inl rfl), rfl, next_of hn⟩

theorem witness_HaltedWorkerIdles : State.reset.halted = true ∧ State.reset.agenda = [] := ⟨rfl, rfl⟩

theorem witness_StartBeginsTheRun :
    ({ State.reset with agenda := [.start] } : State).agenda = .start :: [] ∧
    ({ State.reset with agenda := [.start] } : State).runState = .stopped := ⟨rfl, rfl⟩

theorem witness_StopSetsHaltedAlone :
    ({ ready .bits16 0 0 [0x90] with agenda := [.stop, .worker] } : State).agenda = .stop :: [.worker] := rfl

theorem witness_SamplerPublishesDeltas :
    ({ State.reset with agenda := [.sampleInstr, .sampleClock] } : State).agenda = .sampleInstr :: [.sampleClock] ∧
    ({ State.reset with agenda := [.sampleClock], clockOld := 1 } : State).agenda = .sampleClock :: [] := ⟨rfl, rfl⟩

/-- The last byte of the store. -/
theorem witness_LoaderWritesOneByte :
    State.reset.mem.wf = true ∧
    ({ State.reset with agenda := [.load 0x3FFFFFFF 0xF4] } : State).agenda = .load 0x3FFFFFFF 0xF4 :: [] ∧
    State.reset.started = false ∧ 0x3FFFFFFF < Config.memSize := ⟨rfl, rfl, rfl, by decide⟩

/-- The three refusals, the last at the first address outside the store. -/
theorem witness_ForbiddenHostMovesAreRefused :
    (let s := { ready .bits16 0 0 [0x90] with agenda := [.start] }
     s.agenda = .start :: [] ∧ s.started = true) ∧
    (let s := { ready .bits16 0 0 [0x90] with agenda := [.load 0 0] }
     s.agenda = .load 0 0 :: [] ∧ s.started = true) ∧
    (let s := { State.reset with agenda := [.load 0x40000000 0] }
     s.agenda = .load 0x40000000 0 :: [] ∧ s.started = false ∧ Config.memSize ≤ 0x40000000) :=
  ⟨⟨rfl, rfl⟩, ⟨rfl, rfl⟩, rfl, rfl, by decide⟩

theorem witness_HostReadReturnsFinalValues :
    ({ State.reset with agenda := [.read] } : State).agenda = .read :: [] ∧ State.reset.halted = true := ⟨rfl, rfl⟩

/-- A construction; the last address of the store and an address listed twice; a canonical argument. -/
theorem witness_ConstructionGivesResetValues :
    ({ ready .bits16 0x66 7 [0x90] with agenda := [.construct .bits32 [(0, 0xF4)]] } : State).agenda =
      .construct .bits32 [(0, 0xF4)] :: [] ∧
    (0x3FFFFFFF < Config.memSize ∧ ¬ 0x40000000 < Config.memSize) ∧ Memory.wf [(0, 0xF4)] = true ∧
    (([(0, 1), (0, 2)] : Memory).reverse.lookup 0).getD 0x00#8 = 2 :=
  ⟨rfl, by decide, by decide, by decide⟩

theorem witness_CanonicalMemoriesAreTheContents :
    Memory.wf [(0, 1)] = true ∧ Memory.wf (Memory.ofCells [(0, 2), (0, 1), (5, 0)]) = true ∧
    ∀ x, x < Config.memSize → Memory.read [(0, 1)] x = (Memory.ofCells [(0, 2), (0, 1), (5, 0)]).read x :=
  ⟨by decide, Memory.ofCells_wf _, fun _ _ => rfl⟩

/-- A canonical memory, and for each width the last address that fits and the first that does not. -/
theorem witness_MemWriteIsLittleEndianAndChecked :
    (ready .bits16 0 0 [0x90]).mem.wf = true ∧
    ¬ Config.memSize < (0x3FFFFFFF : Word32).toNat + 1 ∧ Config.memSize < (0x40000000 : Word32).toNat + 1 ∧
    ¬ Config.memSize < (0x3FFFFFFE : Word32).toNat + 2 ∧ Config.memSize < (0x3FFFFFFF : Word32).toNat + 2 ∧
    ¬ Config.memSize < (0x3FFFFFFC : Word32).toNat + 4 ∧ Config.memSize < (0x3FFFFFFD : Word32).toNat + 4 :=
  ⟨Memory.ofCells_wf _, by decide, by decide, by decide, by decide, by decide, by decide⟩

/-- Writes that succeed at the last address of each width. -/
theorem witness_ReadBackAfterWrite :
    State.reset.mem.wf = true ∧ (∃ t, writeByteAt 0x3FFFFFFF 0xA5 State.reset = .ok t) ∧
    (∃ t, writeWordAt 0x3FFFFFFE 0xA5 State.reset = .ok t) ∧ (∃ t, writeDwordAt 0x3FFFFFFC 0xA5 State.reset = .ok t) :=
  ⟨rfl, ⟨_, writeByteAt_ok (by decide)⟩, ⟨_, writeWordAt_ok (by decide)⟩, ⟨_, writeDwordAt_ok (by decide)⟩⟩

theorem witness_FetchReadsAdvancesAndTicks : (ready .bits16 0 0x3FFFFFFF [0x90]).eip.toNat < Config.memSize := by decide

/-- The four rows of the truth table; and opcodes that do not use W, among them one that is not 0xA0 and 0xA0 itself. -/
theorem witness_OperandWidthByModeAndOverride :
    ((ready .bits16 0x40 0 []).mode = .bits16 ∧ (ready .bits16 0x40 0 []).lookback ≠ 0x66) ∧
    ((ready .bits16 0x66 0 []).mode = .bits16 ∧ (ready .bits16 0x66 0 []).lookback = 0x66) ∧
    ((ready .bits32 0x40 0 []).mode = .bits32 ∧ (ready .bits32 0x40 0 []).lookback ≠ 0x66) ∧
    ((ready .bits32 0x66 0 []).mode = .bits32 ∧ (ready .bits32 0x66 0 []).lookback = 0x66) ∧
    (usesWidth (Instr.movAlAddr (.a16 0)).opcode = false ∧ usesWidth (0x8A : Byte) = false ∧ (0x8A : Byte) ≠ 0xA0) :=
  ⟨⟨rfl, by decide⟩, ⟨rfl, rfl⟩, ⟨rfl, by decide⟩, ⟨rfl, rfl⟩, by decide, by decide, by decide⟩

/-- What `Dispatches` asks of a state. -/
def Dispatchable (ctx : State → Prop) (bytes : List Byte) (s : State) : Prop :=
  WorkerNext s ∧ ctx s ∧ BytesAtEip s bytes

/-- What a statement about one instruction asks: a state ready to dispatch its bytes. -/
theorem dispatchable_of {ctx : State → Prop} {m : Mode} {lb : Byte} {bytes : List Byte} (hc : ctx (ready m lb 0x3FFFFFFF bytes))
    (hb : ((List.range bytes.length).all fun k => decide ((ready m lb 0x3FFFFFFF bytes).mem.read
      (((ready m lb 0x3FFFFFFF bytes).eip.toNat + k) % Config.memSize) = bytes.getD k 0)) = true) :
    Dispatchable ctx bytes (ready m lb 0x3FFFFFFF bytes) := ⟨ready_workerNext .., hc, bytesAtEip_of_all hb⟩

/-- The last addresses inside the store and the first outside it, for accesses of 1, 2 and 4 bytes. -/
theorem witness_bounds :
    ((0x3FFFFFFF : Word32).toNat < Config.memSize ∧ Config.memSize ≤ (0x40000000 : Word32).toNat) ∧
    ((0x3FFFFFFE : Word32).toNat + 2 ≤ Config.memSize ∧ Config.memSize < (0x3FFFFFFF : Word32).toNat + 2) ∧
    ((0x3FFFFFFC : Word32).toNat + 4 ≤ Config.memSize ∧ Config.memSize < (0x3FFFFFFD : Word32).toNat + 4) := by decide

theorem witness_IncRegisterByWidth :
    (0x40, .incAx, .eax) ∈ incRows ∧
    (0x43, .incBx, .ebx) ∈ incRows ∧
    Dispatchable anyState [0x40] (ready .bits16 0 0x3FFFFFFF [0x40]) ∧
    Dispatchable anyState [0x43] (ready .bits32 0x66 0x3FFFFFFF [0x43]) ∧
    (ready .bits16 0 0 []).width = .w16 ∧
    (ready .bits16 0x66 0 []).width = .w32 :=
  ⟨.head _,
    .tail _ (.tail _ (.tail _ (.head _))),
    dispatchable_of trivial (by decide),
    dispatchable_of trivial (by decide),
    by decide,
    by decide⟩

theorem witness_IncByteRegister :
    (0xC0, .incAl, .al) ∈ incReg8Rows ∧
    (0xC7, .incBh, .bh) ∈ incReg8Rows ∧
    Dispatchable anyState [0xFE, 0xC7] (ready .bits16 0 0x3FFFFFFF [0xFE, 0xC7]) :=
  ⟨.head _,
    .tail _ (.tail _ (.tail _ (.tail _ (.tail _ (.tail _ (.tail _ (.head _))))))),
    dispatchable_of trivial (by decide)⟩

theorem witness_IncByteAtAddr16 :
    Dispatchable anyState [0xFE, 0x06, 0xFF, 0xFF] (ready .bits16 0 0x3FFFFFFF [0xFE, 0x06, 0xFF, 0xFF]) ∧
    (ready .bits16 0 0 []).mem.wf = true :=
  ⟨dispatchable_of trivial (by decide),
    Memory.ofCells_wf _⟩

theorem witness_IncByteAtAddr32 :
    Dispatchable anyState [0xFE, 0x05, 0xFF, 0xFF, 0xFF, 0x3F] (ready .bits16 0 0x3FFFFFFF [0xFE, 0x05, 0xFF, 0xFF, 0xFF, 0x3F]) ∧
    (ready .bits16 0 0 []).mem.wf = true ∧
    ((0x3FFFFFFF : Word32).toNat < Config.memSize ∧ Config.memSize ≤ (0x40000000 : Word32).toNat) :=
  ⟨dispatchable_of trivial (by decide),
    Memory.ofCells_wf _,
    witness_bounds.1⟩

theorem witness_IncWordAtAddr16 :
    Dispatchable anyState [0xFF, 0x06, 0xFF, 0xFF] (ready .bits16 0 0x3FFFFFFF [0xFF, 0x06, 0xFF, 0xFF]) ∧
    (ready .bits16 0 0 []).mem.wf = true ∧
    (ready .bits16 0 0 []).width = .w16 ∧
    (ready .bits16 0x66 0 []).width = .w32 :=
  ⟨dispatchable_of trivial (by decide),
    Memory.ofCells_wf _,
    by decide,
    by decide⟩

/-- Both widths, each at the last address inside and the first outside. -/
theorem witness_IncWordAtAddr32 :
    Dispatchable anyState [0xFF, 0x05, 0xFE, 0xFF, 0xFF, 0x3F] (ready .bits32 0x66 0x3FFFFFFF [0xFF, 0x05, 0xFE, 0xFF, 0xFF, 0x3F]) ∧
    (ready .bits16 0 0 []).mem.wf = true ∧
    (ready .bits16 0 0 []).width = .w16 ∧
    (ready .bits16 0x66 0 []).width = .w32 ∧
    ((0x3FFFFFFE : Word32).toNat + 2 ≤ Config.memSize ∧ Config.memSize < (0x3FFFFFFF : Word32).toNat + 2) ∧
    ((0x3FFFFFFC : Word32).toNat + 4 ≤ Config.memSize ∧ Config.memSize < (0x3FFFFFFD : Word32).toNat + 4) :=
  ⟨dispatchable_of trivial (by decide),
    Memory.ofCells_wf _,
    by decide,
    by decide,
    witness_bounds.2.1,
    witness_bounds.2.2⟩

theorem witness_MoveByteRegister :
    (0xFF, .movBhBh, .bh, .bh) ∈ movReg8Rows ∧
    Dispatchable anyState [0x88, 0xFF] (ready .bits16 0 0x3FFFFFFF [0x88, 0xFF]) :=
  ⟨List.mem_append_right _ (.tail _ (.tail _ (.tail _ (.tail _ (.tail _ (.tail _ (.head _))))))),
    dispatchable_of trivial (by decide)⟩

theorem witness_LoadByteRegister :
    (0x0E, 0x0D, .movClA16, .movClA32, .cl) ∈ loadReg8Rows ∧
    Dispatchable anyState [0x8A, 0x0E, 0xFF, 0xFF] (ready .bits16 0 0x3FFFFFFF [0x8A, 0x0E, 0xFF, 0xFF]) ∧
    Dispatchable anyState [0x8A, 0x0D, 0x00, 0x00, 0x00, 0x40] (ready .bits16 0 0x3FFFFFFF [0x8A, 0x0D, 0x00, 0x00, 0x00, 0x40]) ∧
    ((0x3FFFFFFF : Word32).toNat < Config.memSize ∧ Config.memSize ≤ (0x40000000 : Word32).toNat) :=
  ⟨.head _,
    dispatchable_of trivial (by decide),
    dispatchable_of trivial (by decide),
    witness_bounds.1⟩

theorem witness_LoadRegisterByWidth :
    (0x1E, 0x1D, .movBxA16, .movBxA32, .ebx) ∈ loadGprRows ∧
    Dispatchable anyState [0x8B, 0x1E, 0xFF, 0xFF] (ready .bits16 0 0x3FFFFFFF [0x8B, 0x1E, 0xFF, 0xFF]) ∧
    Dispatchable anyState [0x8B, 0x1D, 0xFC, 0xFF, 0xFF, 0x3F] (ready .bits32 0 0x3FFFFFFF [0x8B, 0x1D, 0xFC, 0xFF, 0xFF, 0x3F]) ∧
    (ready .bits16 0 0 []).width = .w16 ∧
    (ready .bits16 0x66 0 []).width = .w32 ∧
    ((0x3FFFFFFE : Word32).toNat + 2 ≤ Config.memSize ∧ Config.memSize < (0x3FFFFFFF : Word32).toNat + 2) ∧
    ((0x3FFFFFFC : Word32).toNat + 4 ≤ Config.memSize ∧ Config.memSize < (0x3FFFFFFD : Word32).toNat + 4) :=
  ⟨.tail _ (.tail _ (.head _)),
    dispatchable_of trivial (by decide),
    dispatchable_of trivial (by decide),
    by decide,
    by decide,
    witness_bounds.2.1,
    witness_bounds.2.2⟩

/-- Either mode, after the prefix too. -/
theorem witness_LoadAlFromAddress :
    Dispatchable (fun s => s.mode = .bits16) [0xA0, 0xFF, 0xFF] (ready .bits16 0x66 0x3FFFFFFF [0xA0, 0xFF, 0xFF]) ∧
    Dispatchable (fun s => s.mode = .bits32) [0xA0, 0xFF, 0xFF, 0xFF, 0x3F] (ready .bits32 0x66 0x3FFFFFFF [0xA0, 0xFF, 0xFF, 0xFF, 0x3F]) ∧
    ((0x3FFFFFFF : Word32).toNat < Config.memSize ∧ Config.memSize ≤ (0x40000000 : Word32).toNat) :=
  ⟨dispatchable_of rfl (by decide),
    dispatchable_of rfl (by decide),
    witness_bounds.1⟩

/-- Either width, in the mode whose default it is not. -/
theorem witness_LoadAccumulatorByWidth :
    Dispatchable (fun s => s.width = .w16) [0xA1, 0xFF, 0xFF] (ready .bits32 0x66 0x3FFFFFFF [0xA1, 0xFF, 0xFF]) ∧
    Dispatchable (fun s => s.width = .w32) [0xA1, 0xFC, 0xFF, 0xFF, 0x3F] (ready .bits16 0x66 0x3FFFFFFF [0xA1, 0xFC, 0xFF, 0xFF, 0x3F]) ∧
    ((0x3FFFFFFC : Word32).toNat + 4 ≤ Config.memSize ∧ Config.memSize < (0x3FFFFFFD : Word32).toNat + 4) :=
  ⟨dispatchable_of (by decide) (by decide),
    dispatchable_of (by decide) (by decide),
    witness_bounds.2.2⟩

theorem witness_MoveImmediateByte :
    (0xB7, .movBhImm8, .bh) ∈ movImm8Rows ∧
    Dispatchable anyState [0xB7, 0xFF] (ready .bits16 0 0x3FFFFFFF [0xB7, 0xFF]) :=
  ⟨.tail _ (.tail _ (.tail _ (.tail _ (.tail _ (.tail _ (.tail _ (.head _))))))),
    dispatchable_of trivial (by decide)⟩

theorem witness_MoveImmediateByWidth :
    (0xBB, .movBxImm, .ebx) ∈ movImmRows ∧
    Dispatchable (fun s => s.width = .w16) [0xBB, 0xFF, 0xFF] (ready .bits16 0 0x3FFFFFFF [0xBB, 0xFF, 0xFF]) ∧
    Dispatchable (fun s => s.width = .w32) [0xBB, 0xFF, 0xFF, 0xFF, 0xFF] (ready .bits32 0 0x3FFFFFFF [0xBB, 0xFF, 0xFF, 0xFF, 0xFF]) :=
  ⟨.tail _ (.tail _ (.tail _ (.head _))),
    dispatchable_of (by decide) (by decide),
    dispatchable_of (by decide) (by decide)⟩

theorem witness_OverrideIsOnlyRecorded :
    Dispatchable anyState [0x66] (ready .bits16 0 0x3FFFFFFF [0x66]) ∧
    (fetchOpcode (ready .bits16 0 0 [0x66])).current = 0x66 :=
  ⟨dispatchable_of trivial (by decide),
    by decide⟩

theorem witness_NopOnlyRetires :
    Dispatchable anyState [0x90] (ready .bits16 0 0x3FFFFFFF [0x90]) :=
  dispatchable_of trivial (by decide)

theorem witness_JumpTargetIsModulo256 :
    Dispatchable anyState [0xEB, 0xFF] (ready .bits16 0 0x3FFFFFFF [0xEB, 0xFF]) :=
  dispatchable_of trivial (by decide)

theorem witness_HaltIsCountedAndEndsTheLoop :
    Dispatchable anyState [0xF4] (ready .bits16 0 0x3FFFFFFF [0xF4]) :=
  dispatchable_of trivial (by decide)

end Sys2Proof.Machine.Test
end

section
/-!
PROOFS. The register views (spec/10_state.md R24, R25): what a view reads, and what a written view leaves unchanged.
-/

namespace Sys2Proof.Machine

/-! ## A view reads a window of its register (R24) -/

theorem Regs.get8_of_low (g : Regs) {r : Reg8} (h : isHigh r = false) :
    g.get8 r = (g.get (parent r)).extractLsb' 0 8 := by
  rw [Regs.get8, h]
  rfl

theorem Regs.get8_of_high (g : Regs) {r : Reg8} (h : isHigh r = true) :
    g.get8 r = (g.get (parent r)).extractLsb' 8 8 := by
  rw [Regs.get8, h]
  rfl

theorem Regs.get16_eq_extractLsb' (g : Regs) (r : Gpr) : g.get16 r = (g.get r).extractLsb' 0 16 := rfl

/-! ## A written view leaves every other bit (R25)

Stated for any state `t` with the written register file, so that they hold of a completed instruction too. -/

section
variable {s t : State}

theorem onlyReg8_of_regs {d : Reg8} {v : Byte} (h : t.regs = s.regs.set8 d v) : OnlyReg8 d s t := by
  rw [OnlyReg8, h]
  exact ⟨fun _ hq => Regs.get8_set8_other hq, Regs.upper_set8 s.regs d v, Regs.set_parent_unnumbered s.regs d _⟩

theorem writesWord_of_regs {r : Gpr} {v : Word16} (h : t.regs = s.regs.set16 r v) : WritesWord r v s t := by
  rw [WritesWord, h]
  refine ⟨?low, ?upper, fun q hq => Regs.get_set_other hq⟩
  case low => exact Regs.get16_set16 s.regs r v
  case upper => rw [Regs.set16, Regs.get_set_same, upper_setLowWord]

theorem writesDword_of_regs {r : Gpr} {v : Word32} (h : t.regs = s.regs.set r v) : WritesDword r v s t := by
  rw [WritesDword, h]
  exact ⟨Regs.get_set_same s.regs r v, fun _ hq => Regs.get_set_other hq⟩

end

/-! ## The obligations -/

/-- Settles O35: each clause is the law of its write, and the written byte reads back. -/
theorem viewWritesKeepTheOtherBits : Obligations.ViewWritesKeepTheOtherBits := by
  unfold Obligations.ViewWritesKeepTheOtherBits
  refine ⟨fun s d v => ⟨?readBack, onlyReg8_of_regs (setReg8_regs s d v)⟩,
    fun s r v => writesWord_of_regs (setGpr16_regs s r v),
    fun s r v => writesDword_of_regs (setGpr_regs s r v)⟩
  case readBack => rw [setReg8_regs, Regs.get8_set8_same]

/-- Settles O34: the low and high bytes and the low word of each of the four registers, by the law of its view. -/
theorem viewsReadWindowsOfTheRegister : Obligations.ViewsReadWindowsOfTheRegister := by
  intro g
  refine ⟨?eax, ?ecx, ?edx, ?ebx⟩
  case eax => exact ⟨g.get8_of_low rfl, g.get8_of_high rfl, g.get16_eq_extractLsb' .eax, rfl⟩
  case ecx => exact ⟨g.get8_of_low rfl, g.get8_of_high rfl, g.get16_eq_extractLsb' .ecx, rfl⟩
  case edx => exact ⟨g.get8_of_low rfl, g.get8_of_high rfl, g.get16_eq_extractLsb' .edx, rfl⟩
  case ebx => exact ⟨g.get8_of_low rfl, g.get8_of_high rfl, g.get16_eq_extractLsb' .ebx, rfl⟩

end Sys2Proof.Machine
end

section
/-!
PROOFS. The addressed path reads back what it wrote (spec/20_memory.md R52): the bytes a completed write has put at its address,
and the byte order's law for a word within a wider value.
-/

namespace Sys2Proof

/-- Two neighbouring bytes of a value are the word of the value that begins with the first. -/
theorem le16_byteOf_eq_extractLsb' {n : Nat} (v : BitVec n) (k : Nat) :
    le16 (byteOf v k) (byteOf v (k + 1)) = v.extractLsb' (8 * k) 16 :=
  BitVec.extractLsb'_append_extractLsb'_eq_extractLsb' (by omega)

end Sys2Proof

namespace Sys2Proof.Machine

section
variable {a : Word32} {s t : State}

/-! ## What a completed write has put at its address (R54) -/

theorem writeByteAt_read {v : Byte} (hw : s.mem.wf = true) (h : writeByteAt a v s = .ok t) :
    t.mem.read a.toNat = v := by
  obtain ⟨hin, -⟩ := writeByteAt_stored h
  rw [writeByteAt_ok hin] at h
  cases h
  exact Memory.read_write_same hw

theorem writeWordAt_read {v : Word16} (hw : s.mem.wf = true) (h : writeWordAt a v s = .ok t) :
    t.mem.read a.toNat = byteOf v 0 ∧ t.mem.read (a.toNat + 1) = byteOf v 1 := by
  obtain ⟨hin, -⟩ := writeWordAt_stored h
  rw [writeWordAt_ok hin] at h
  cases h
  have hw₁ := Memory.write_wf (v := byteOf v 0) hw (x := a.toNat) (by omega)
  constructor
  · rw [Memory.read_write_other (by omega), Memory.read_write_same hw]
  · exact Memory.read_write_same hw₁

theorem writeDwordAt_read {v : Word32} (hw : s.mem.wf = true) (h : writeDwordAt a v s = .ok t) :
    t.mem.read a.toNat = byteOf v 0 ∧ t.mem.read (a.toNat + 1) = byteOf v 1 ∧
      t.mem.read (a.toNat + 2) = byteOf v 2 ∧ t.mem.read (a.toNat + 3) = byteOf v 3 := by
  obtain ⟨hin, -⟩ := writeDwordAt_stored h
  rw [writeDwordAt_ok hin] at h
  cases h
  have hw₁ := Memory.write_wf (v := byteOf v 0) hw (x := a.toNat) (by omega)
  have hw₂ := Memory.write_wf (v := byteOf v 1) hw₁ (x := a.toNat + 1) (by omega)
  have hw₃ := Memory.write_wf (v := byteOf v 2) hw₂ (x := a.toNat + 2) (by omega)
  refine ⟨?_, ?_, ?_, ?_⟩
  · rw [Memory.read_write_other (by omega), Memory.read_write_other (by omega), Memory.read_write_other (by omega),
      Memory.read_write_same hw]
  · rw [Memory.read_write_other (by omega), Memory.read_write_other (by omega), Memory.read_write_same hw₁]
  · rw [Memory.read_write_other (by omega), Memory.read_write_same hw₂]
  · exact Memory.read_write_same hw₃

/-! ## Reading it back (R52, R53) -/

theorem readByteAt_writeByteAt {v : Byte} (hw : s.mem.wf = true) (h : writeByteAt a v s = .ok t) :
    readByteAt a t = .ok v := by
  obtain ⟨hin, -⟩ := writeByteAt_stored h
  rw [readByteAt_ok hin, writeByteAt_read hw h]

theorem readWordAt_writeWordAt {v : Word16} (hw : s.mem.wf = true) (h : writeWordAt a v s = .ok t) :
    readWordAt a t = .ok v := by
  obtain ⟨hin, -⟩ := writeWordAt_stored h
  obtain ⟨h0, h1⟩ := writeWordAt_read hw h
  rw [readWordAt_ok hin, h0, h1, le16_byteOf]

theorem readDwordAt_writeDwordAt {v : Word32} (hw : s.mem.wf = true) (h : writeDwordAt a v s = .ok t) :
    readDwordAt a t = .ok v := by
  obtain ⟨hin, -⟩ := writeDwordAt_stored h
  obtain ⟨h0, h1, h2, h3⟩ := writeDwordAt_read hw h
  rw [readDwordAt_ok hin, h0, h1, h2, h3, le32_byteOf]

theorem readByteAt_writeDwordAt {v : Word32} (hw : s.mem.wf = true) (h : writeDwordAt a v s = .ok t) :
    readByteAt a t = .ok (v.extractLsb' 0 8) := by
  obtain ⟨hin, -⟩ := writeDwordAt_stored h
  obtain ⟨h0, -⟩ := writeDwordAt_read hw h
  rw [readByteAt_ok (by omega), h0, byteOf]

theorem readWordAt_writeDwordAt {v : Word32} (hw : s.mem.wf = true) (h : writeDwordAt a v s = .ok t) :
    readWordAt a t = .ok (v.extractLsb' 0 16) := by
  obtain ⟨hin, -⟩ := writeDwordAt_stored h
  obtain ⟨h0, h1, -⟩ := writeDwordAt_read hw h
  rw [readWordAt_ok (by omega), h0, h1, le16_byteOf_eq_extractLsb']

/-- The address of a dword's high word does not wrap: the store ends far below 2^32. -/
theorem highWord_address (h : a.toNat + 4 ≤ Config.memSize) : (a + 2).toNat = a.toNat + 2 := by
  simp only [Config.memSize] at h
  bv_omega

theorem readWordAt_add_two_writeDwordAt {v : Word32} (hw : s.mem.wf = true) (h : writeDwordAt a v s = .ok t) :
    readWordAt (a + 2) t = .ok (v.extractLsb' 16 16) := by
  obtain ⟨hin, -⟩ := writeDwordAt_stored h
  obtain ⟨-, -, h2, h3⟩ := writeDwordAt_read hw h
  have ha := highWord_address hin
  rw [readWordAt_ok (by omega), ha, h2, h3, le16_byteOf_eq_extractLsb']

end

/-! ## The obligation -/

/-- Settles O32: each clause is the read-back law of its pair of widths. -/
theorem readBackAfterWrite : Obligations.ReadBackAfterWrite := by
  unfold Obligations.ReadBackAfterWrite
  intro s t a hw
  refine ⟨fun v h => ?byte, fun v h => ?word, fun v h => ⟨?dword, ?lowByte, ?lowWord, ?highWord⟩⟩
  case byte => exact readByteAt_writeByteAt hw h
  case word => exact readWordAt_writeWordAt hw h
  case dword => exact readDwordAt_writeDwordAt hw h
  case lowByte => exact readByteAt_writeDwordAt hw h
  case lowWord => exact readWordAt_writeDwordAt hw h
  case highWord => exact readWordAt_add_two_writeDwordAt hw h

end Sys2Proof.Machine
end

section
/-!
PROOFS. Invalid opcodes (spec/30_encoding.md R86, R92): the opcode map has an entry for exactly the listed bytes, and the decoder
rejects an opcode exactly where the map has none.
-/

namespace Sys2Proof.Machine

section
variable {m : Mode} {w : Width}

/-! ## The bytes of the opcode map (R1, R86) -/

/-- In every mode and width the rows of the map begin with the bytes of R1's list. -/
theorem supportedOpcode_eq_contains (m : Mode) (w : Width) (op : Byte) :
    supportedOpcode op = ((opcodeRows m w).map Prod.fst).contains op := rfl

theorem opcodeEntry_eq_none_iff {op : Byte} : opcodeEntry m w op = none ↔ supportedOpcode op = false := by
  rw [opcodeEntry, List.lookup_eq_none_iff, supportedOpcode_eq_contains m w,
    List.contains_eq_mem, decide_eq_false_iff_not, List.mem_map]
  simp only [bne_iff_ne, ne_comm, ne_eq, not_exists, not_and]

/-! ## The decoder's answer where the map has no entry (R92) -/

theorem decode_eq_invalidOpcode_iff {b : Window} {c : Byte} :
    decode m w b = .invalidOpcode c ↔ c = b.b0 ∧ opcodeEntry m w b.b0 = none := by
  unfold decode
  split
  case h_1 hnone => simp [hnone, eq_comm]
  case h_2 hsingle => simp [hsingle]
  case h_3 hsecond => split <;> simp [hsecond]

end

/-! ## The obligation -/

/-- Settles O4: the decoder rejects where the opcode map has no entry, and the map's bytes are the listed ones. -/
theorem invalidOpcodesAreExactlyTheUnlisted : Obligations.InvalidOpcodesAreExactlyTheUnlisted := by
  intro m w b c
  rw [decode_eq_invalidOpcode_iff, opcodeEntry_eq_none_iff]

end Sys2Proof.Machine
end

section
/-!
PROOFS. MOV of an immediate byte (spec/42_mov.md R183 to R190): how a one-byte operand field is dispatched (R111, R112), what a
completed change of registers retires (R113), and the eight rows.
-/

namespace Sys2Proof.Machine

section
variable {s : State} {op v : Byte}

/-! ## Dispatching an opcode without a second byte (R111, R112) -/

theorem BytesAtEip.fetchAt_eq {l : List Byte} {k : Nat} {b : Byte} (h : BytesAtEip s l) (hk : l[k]? = some b) :
    fetchAt s k = b := h k b hk

theorem fetchAt_fetchOpcode (s : State) (k : Nat) : fetchAt (fetchOpcode s) k = fetchAt s (1 + k) :=
  fetchAt_advance 1 k s

theorem step_of_single {t : Tail} (hs : WorkerNext s)
    (ho : opcodeEntry s.mode s.width (fetchAt s 0) = some (.single t)) : step s = runTail t (fetchOpcode s) := by
  obtain ⟨hrun, hq⟩ := hs
  rw [step_nil hq, workerStep_running hrun, dispatch, fetchOpcode_mode, fetchOpcode_width, fetchOpcode_current, ho]

/-- The opcode byte and one operand byte, fetched in two calls. -/
theorem advance_fetchOpcode_eq_afterFetch (h : fetchAt s 0 = op) : advance 1 (fetchOpcode s) = s.afterFetch op 2 2 := by
  refine afterFetch_ext rfl ?eip ?clock h
  case eip => rw [advance_eip_toNat, fetchOpcode_eq, advance_eip_toNat, Nat.mod_add_mod]
  case clock =>
    rw [advance_clock, fetchOpcode_clock, BitVec.add_assoc]
    rfl

/-- An opcode that has a one-byte operand field in every mode and width dispatches the instruction that the byte completes. -/
theorem dispatches_of_byteTail {k : Byte → Instr} (ho : ∀ m w, opcodeEntry m w op = some (.single (.byte k))) :
    Dispatches anyState op [v] 2 (k v) := by
  intro s hs _ hb
  have hop : fetchAt s 0 = op := hb.fetchAt_eq rfl
  have hv : fetchAt s 1 = v := hb.fetchAt_eq rfl
  rw [step_of_single hs (hop ▸ ho _ _), runTail_eq, fetchAt_fetchOpcode]
  simp only [Tail.read, hv, advance_fetchOpcode_eq_afterFetch hop, List.length_singleton]

/-! ## What a completed change of registers retires (R113) -/

theorem retiresRegs_epilogue (s : State) (g : Regs) : RetiresRegs s (epilogue { s with regs := g }) :=
  ⟨rfl, fun _ => rfl⟩

/-- A completed write of an 8-bit view: only the epilogue besides, only that view among the registers, and the value there. -/
theorem epilogue_setReg8_writes (s : State) (d : Reg8) (v : Byte) :
    RetiresRegs s (epilogue (s.setReg8 d v)) ∧ OnlyReg8 d s (epilogue (s.setReg8 d v)) ∧
      (epilogue (s.setReg8 d v)).regs.get8 d = v :=
  ⟨retiresRegs_epilogue s (s.regs.set8 d v), onlyReg8_of_regs rfl, Regs.get8_set8_same s.regs d v⟩

/-! ## The rows 0xB0 to 0xB7 (R183 to R190) -/

/-- A row's opcode byte selects, in every mode and width, the row's instruction with a one-byte field. -/
theorem opcodeEntry_of_mem_movImm8Rows {c : Byte → Instr} {d : Reg8} (h : (op, c, d) ∈ movImm8Rows) (m : Mode) (w : Width) :
    opcodeEntry m w op = some (.single (.byte c)) := by
  simp only [movImm8Rows, List.mem_cons, Prod.mk.injEq, List.not_mem_nil, or_false] at h
  rcases h with ⟨rfl, rfl, -⟩ | ⟨rfl, rfl, -⟩ | ⟨rfl, rfl, -⟩ | ⟨rfl, rfl, -⟩ | ⟨rfl, rfl, -⟩ | ⟨rfl, rfl, -⟩ |
    ⟨rfl, rfl, -⟩ | ⟨rfl, rfl, -⟩ <;> rfl

/-- A row's instruction is the move of its immediate to the row's view. -/
theorem exec_of_mem_movImm8Rows {c : Byte → Instr} {d : Reg8} (h : (op, c, d) ∈ movImm8Rows) (v : Byte) (s : State) :
    exec (c v) s = movImm8 d v s := by
  simp only [movImm8Rows, List.mem_cons, Prod.mk.injEq, List.not_mem_nil, or_false] at h
  rcases h with ⟨-, rfl, rfl⟩ | ⟨-, rfl, rfl⟩ | ⟨-, rfl, rfl⟩ | ⟨-, rfl, rfl⟩ | ⟨-, rfl, rfl⟩ | ⟨-, rfl, rfl⟩ |
    ⟨-, rfl, rfl⟩ | ⟨-, rfl, rfl⟩ <;> rfl

end

/-! ## The obligation -/

/-- Settles O48: each row's opcode has a one-byte field, and its instruction is one completed write of the row's view. -/
theorem moveImmediateByte : Obligations.MoveImmediateByte := by
  unfold Obligations.MoveImmediateByte
  intro op c d hrow v
  refine ⟨dispatches_of_byteTail (opcodeEntry_of_mem_movImm8Rows hrow), fun s => ⟨epilogue (s.setReg8 d v), ?exec, ?writes⟩⟩
  case exec => exact exec_of_mem_movImm8Rows hrow v s
  case writes => exact epilogue_setReg8_writes s d v

end Sys2Proof.Machine
end

section
/-!
PROOFS. The control instructions (spec/43_control.md R211 to R213): JMP rel8 and HLT, and the opcode bytes without an entry.
-/

namespace Sys2Proof.Machine

section
variable {s : State} {op : Byte}

/-! ## An opcode without an entry (R213) -/

/-- When the worker moves, by an empty queue or named by it, the step is its iteration with that move taken. -/
theorem step_eq_workerStep_tail (h : s.agenda = [] ∨ ∃ rest, s.agenda = .worker :: rest) :
    step s = workerStep { s with agenda := s.agenda.tail } := by
  rcases h with hnil | ⟨rest, hcons⟩
  case inl =>
    have htail : { s with agenda := s.agenda.tail } = s := by rw [hnil, List.tail_nil, ← hnil]
    rw [step_nil hnil, htail]
  case inr =>
    rw [step_cons hcons, hcons]
    rfl

theorem dispatch_of_opcodeEntry_none (h : opcodeEntry s.mode s.width s.current = none) :
    dispatch s = .next (raise (.invalidOpcode s.current) s) := by
  rw [dispatch, h]

/-- One iteration of the run loop at a byte without an entry: the opcode fetch, then the failure. -/
theorem workerStep_of_unsupported (hrun : s.halted = false) (hop : fetchAt s 0 = op) (h : supportedOpcode op = false) :
    workerStep s = .next (raise (.invalidOpcode op) (fetchOpcode s)) := by
  subst hop
  exact (workerStep_running hrun).trans (dispatch_of_opcodeEntry_none (opcodeEntry_eq_none_iff.mpr h))

/-! ## Dispatching an opcode that stands alone (R111, R112) -/

/-- The opcode byte, fetched in one call. -/
theorem fetchOpcode_eq_afterFetch (h : fetchAt s 0 = op) : fetchOpcode s = s.afterFetch op 1 1 := by
  subst h
  rfl

/-- An opcode that is the whole instruction in every mode and width dispatches it. -/
theorem dispatches_of_noneTail {i : Instr} (ho : ∀ m w, opcodeEntry m w op = some (.single (.none i))) :
    Dispatches anyState op [] 1 i := by
  intro s hs _ hb
  have hop : fetchAt s 0 = op := hb.fetchAt_eq rfl
  rw [step_of_single hs (hop ▸ ho _ _), runTail_eq, fetchOpcode_eq_afterFetch hop]
  rfl

/-! ## The jump (R211) -/

theorem exec_jmpRel8 (v : Byte) (s : State) :
    exec (.jmpRel8 v) s = .next (epilogue { s with eip := jumpTarget s.eip v }) := rfl

/-- The operand read as signed differs from the byte by a multiple of 256, so the target is the same. -/
theorem jumpTarget_toNat_signed (e : Word32) (v : Byte) :
    ((jumpTarget e v).toNat : Int) = (e.toNat + v.toInt + 1) % 256 := by
  rw [jumpTarget_toNat, BitVec.toInt_eq_toNat_cond]
  split <;> omega

theorem dispatches_jmpRel8 (v : Byte) : Dispatches anyState 0xEB#8 [v] 2 (.jmpRel8 v) :=
  dispatches_of_byteTail fun _ _ => rfl

/-- The target counted from the jump's opcode byte: the wrap of the fetches does not show, as 256 divides `MEM_SIZE`. -/
theorem jumpTarget_afterFetch_toNat (s : State) (op v : Byte) (f : Nat) :
    (jumpTarget (s.afterFetch op 2 f).eip v).toNat = (s.eip.toNat + 3 + v.toNat) % 256 := by
  rw [jumpTarget_toNat, afterFetch_eip_toNat]
  simp only [Config.memSize]
  omega

/-! ## The halt (R212) -/

theorem exec_hlt (s : State) : exec .hlt s = .next (epilogue { s with halted := true }) := rfl

end

/-! ## The obligations -/

/-- Settles O7: the step is the worker's iteration, which fetches the byte and takes the failure. -/
theorem invalidOpcodeHaltsTheEngine : Obligations.InvalidOpcodeHaltsTheEngine := by
  unfold Obligations.InvalidOpcodeHaltsTheEngine
  intro s b hrun hmove hbytes hunsupported
  have hop : fetchAt s 0 = b := hbytes.fetchAt_eq rfl
  subst hop
  rw [step_eq_workerStep_tail hmove]
  exact workerStep_of_unsupported hrun rfl hunsupported

/-- Settles O52: the jump is one completed write of `EIP`, and its target by number follows in each reading. -/
theorem jumpTargetIsModulo256 : Obligations.JumpTargetIsModulo256 := by
  unfold Obligations.JumpTargetIsModulo256
  intro v
  refine ⟨dispatches_jmpRel8 v, fun s => ⟨_, exec_jmpRel8 v s, rfl, ?unsigned, ?signed, fun _ => rfl⟩, ?fromOpcode⟩
  case unsigned => exact jumpTarget_toNat s.eip v
  case signed => exact jumpTarget_toNat_signed s.eip v
  case fromOpcode =>
    intro s hs hb
    have hstep := (dispatches_jmpRel8 v s hs trivial hb).trans (exec_jmpRel8 v _)
    exact ⟨_, hstep, jumpTarget_afterFetch_toNat s 0xEB v 2⟩

/-- Settles O53: HLT is one completed write of `Halted`, and a halted worker idles. -/
theorem haltIsCountedAndEndsTheLoop : Obligations.HaltIsCountedAndEndsTheLoop := by
  unfold Obligations.HaltIsCountedAndEndsTheLoop
  refine ⟨dispatches_of_noneTail fun _ _ => rfl, fun s => ⟨_, exec_hlt s, rfl, fun _ => rfl, ?idle⟩⟩
  case idle => exact workerStep_halted rfl

end Sys2Proof.Machine
end

section
/-!
PROOFS. Decoding and encoding are inverse to each other (spec/30_encoding.md R81, R82, R93): an encoded instruction decodes to
itself, a decoded window begins with the encoding of its instruction, and what is neither is a byte without an entry.
-/

namespace Sys2Proof

section
variable {m : Mode} {w : Width} {op sb : Byte} {after : List Byte}

/-! ## Decoding the bytes of an instruction without a second byte -/

theorem decode_single {b : Window} {t : Tail} (ho : opcodeEntry m w b.b0 = some (.single t)) :
    decode m w b = .instr (t.read b.b1 b.b2 b.b3 b.b4) := by
  simp only [decode, ho]

theorem decode_single_none {i : Instr} (ho : opcodeEntry m w op = some (.single (.none i))) (he : i.encode = [op]) :
    decode m w (Window.ofBytes (i.encode ++ after)) = .instr i := by
  rw [he]
  exact decode_single (b := Window.ofBytes ([op] ++ after)) ho

theorem decode_single_byte {k : Byte → Instr} {v : Byte} (ho : opcodeEntry m w op = some (.single (.byte k)))
    (he : (k v).encode = [op, v]) : decode m w (Window.ofBytes ((k v).encode ++ after)) = .instr (k v) := by
  rw [he]
  exact decode_single (b := Window.ofBytes ([op, v] ++ after)) ho

theorem decode_single_word {k : Word16 → Instr} {v : Word16} (ho : opcodeEntry m w op = some (.single (.word k)))
    (he : (k v).encode = [op, byteOf v 0, byteOf v 1]) :
    decode m w (Window.ofBytes ((k v).encode ++ after)) = .instr (k v) := by
  rw [he]
  exact (decode_single (b := Window.ofBytes ([op, byteOf v 0, byteOf v 1] ++ after)) ho).trans
    (congrArg (fun x => Decoded.instr (k x)) (le16_byteOf v))

theorem decode_single_dword {k : Word32 → Instr} {v : Word32} (ho : opcodeEntry m w op = some (.single (.dword k)))
    (he : (k v).encode = [op, byteOf v 0, byteOf v 1, byteOf v 2, byteOf v 3]) :
    decode m w (Window.ofBytes ((k v).encode ++ after)) = .instr (k v) := by
  rw [he]
  exact (decode_single (b := Window.ofBytes ([op, byteOf v 0, byteOf v 1, byteOf v 2, byteOf v 3] ++ after)) ho).trans
    (congrArg (fun x => Decoded.instr (k x)) (le32_byteOf v))

/-- An address operand decodes at the width that its own form has. -/
theorem decode_single_addr {x : Width} {k : Addr → Instr} {a : Addr} (hx : (a.width == x) = true)
    (ho : opcodeEntry m w op = some (.single (addrTail x k))) (he : (k a).encode = [op] ++ a.bytes) :
    decode m w (Window.ofBytes ((k a).encode ++ after)) = .instr (k a) := by
  obtain rfl : a.width = x := eq_of_beq hx
  cases a with
  | a16 v => exact decode_single_word (k := fun v => k (.a16 v)) ho he
  | a32 v => exact decode_single_dword (k := fun v => k (.a32 v)) ho he

/-- An immediate decodes at the width that its own form has. -/
theorem decode_single_imm {x : Width} {k : Imm → Instr} {v : Imm} (hx : (v.width == x) = true)
    (ho : opcodeEntry m w op = some (.single (immTail x k))) (he : (k v).encode = [op] ++ v.bytes) :
    decode m w (Window.ofBytes ((k v).encode ++ after)) = .instr (k v) := by
  obtain rfl : v.width = x := eq_of_beq hx
  cases v with
  | i16 v => exact decode_single_word (k := fun v => k (.i16 v)) ho he
  | i32 v => exact decode_single_dword (k := fun v => k (.i32 v)) ho he

/-! ## Every instruction (R81) -/

theorem decode_encode {i : Instr} (h : i.wf m w = true) :
    decode m w (Window.ofBytes (i.encode ++ after)) = .instr i := by
  cases i with
  | incAx | incCx | incDx | incBx | opsize | nop | hlt => exact decode_single_none rfl rfl
  | movAlImm8 _ | movClImm8 _ | movDlImm8 _ | movBlImm8 _ | movAhImm8 _ | movChImm8 _ | movDhImm8 _ | movBhImm8 _
  | jmpRel8 _ => exact decode_single_byte rfl rfl
  | movAlAddr a => exact decode_single_addr (k := .movAlAddr) h rfl rfl
  | movAxAddr a => exact decode_single_addr (k := .movAxAddr) h rfl rfl
  | movAxImm v => exact decode_single_imm (k := .movAxImm) h rfl rfl
  | movCxImm v => exact decode_single_imm (k := .movCxImm) h rfl rfl
  | movDxImm v => exact decode_single_imm (k := .movDxImm) h rfl rfl
  | movBxImm v => exact decode_single_imm (k := .movBxImm) h rfl rfl
  | movAlAl | movAlCl | movAlDl | movAlBl | movAlAh | movAlCh | movAlBh | movClAl | movClCl | movClDl | movClBl | movClAh
  | movClCh | movClBh | movDlAl | movDlCl | movDlDl | movDlBl | movDlAh | movDlCh | movDlBh | movBlAl | movBlCl | movBlDl
  | movBlBl | movBlAh | movBlCh | movBlBh | movAhAl | movAhCl | movAhDl | movAhBl | movAhAh | movAhCh | movAhBh | movChAl
  | movChCl | movChDl | movChBl | movChAh | movChCh | movChBh | movBhAl | movBhCl | movBhDl | movBhBl | movBhAh | movBhCh
  | movBhBh | incAl | incCl | incDl | incBl | incAh | incCh | incDh | incBh => exact decode_second_none rfl rfl rfl
  | movClA16 _ | movDlA16 _ | movBlA16 _ | movAhA16 _ | movChA16 _ | movDhA16 _ | movBhA16 _ | movCxA16 _ | movDxA16 _
  | movBxA16 _ | incByteA16 _ | incWordA16 _ => exact decode_second_word rfl rfl rfl
  | movClA32 _ | movDlA32 _ | movBlA32 _ | movAhA32 _ | movChA32 _ | movDhA32 _ | movBhA32 _ | movCxA32 _ | movDxA32 _
  | movBxA32 _ | incByteA32 _ | incWordA32 _ => exact decode_second_dword rfl rfl rfl

/-! ## What a window decodes to (R82) -/

/-- A window that decodes to `i` begins with an opcode byte alone or with two leading bytes, after which a tail of the tables
completes `i`. -/
theorem decode_instr_cases {b : Window} {i : Instr} (h : decode m w b = .instr i) :
    (∃ t, opcodeEntry m w b.b0 = some (.single t) ∧ t.Completes m w [b.b0] ∧ i = t.read b.b1 b.b2 b.b3 b.b4) ∨
    (∃ table t, opcodeEntry m w b.b0 = some (.second table) ∧ table b.b1 = some t ∧ t.Completes m w [b.b0, b.b1] ∧
      i = t.read b.b2 b.b3 b.b4 b.b5) := by
  unfold decode at h
  split at h
  case h_1 => cases h
  case h_2 t ho => exact .inl ⟨t, ho, opcodeEntry_completes ho, (Decoded.instr.inj h).symm⟩
  case h_3 table ho =>
    split at h
    case h_1 => cases h
    case h_2 t ht => exact .inr ⟨table, t, ho, ht, opcodeEntry_completes ho b.b1 t ht, (Decoded.instr.inj h).symm⟩

section
variable {hd : List Byte} {t : Tail} {x0 x1 x2 x3 : Byte} (h : t.Completes m w hd)
include h

theorem Tail.Completes.wf_eq_true : (t.read x0 x1 x2 x3).wf m w = true := (h ..).1

theorem Tail.Completes.encode_eq : (t.read x0 x1 x2 x3).encode = hd ++ t.field x0 x1 x2 x3 := (h ..).2.1

theorem Tail.Completes.fetchSizes_eq : (t.read x0 x1 x2 x3).fetchSizes = hd.map (fun _ => 1) ++ t.sizes := (h ..).2.2

end

theorem Tail.field_prefix (t : Tail) (x0 x1 x2 x3 : Byte) : t.field x0 x1 x2 x3 <+: [x0, x1, x2, x3] := by
  cases t with
  | none _ => exact List.nil_prefix
  | byte _ => exact ⟨[x1, x2, x3], rfl⟩
  | word _ => exact ⟨[x2, x3], rfl⟩
  | dword _ => exact ⟨[], rfl⟩

theorem encode_prefix_of_decode {b : Window} {i : Instr} (h : decode m w b = .instr i) : i.encode <+: b.bytes := by
  rcases decode_instr_cases h with ⟨t, -, hc, rfl⟩ | ⟨_, t, -, -, hc, rfl⟩
  case inl =>
    rw [hc.encode_eq]
    exact (List.prefix_append_right_inj [b.b0]).mpr ((t.field_prefix ..).trans ⟨[b.b5], rfl⟩)
  case inr =>
    rw [hc.encode_eq]
    exact (List.prefix_append_right_inj [b.b0, b.b1]).mpr (t.field_prefix ..)

theorem wf_of_decode {b : Window} {i : Instr} (h : decode m w b = .instr i) : i.wf m w = true := by
  rcases decode_instr_cases h with ⟨t, -, hc, rfl⟩ | ⟨_, t, -, -, hc, rfl⟩
  · exact hc.wf_eq_true
  · exact hc.wf_eq_true

end

end Sys2Proof

namespace Sys2Proof.Machine

section
variable {m : Mode} {w : Width} {op sb : Byte}

/-! ## Second bytes without an entry (R93) -/

theorem table_eq_none_iff {table : Byte → Option Tail} : table sb = none ↔ sb ∉ entriesOf table := by
  constructor
  · intro h hmem
    simp [entriesOf, h] at hmem
  · intro h
    exact Option.eq_none_iff_forall_ne_some.mpr fun t ht => h (mem_entriesOf ht)

/-- The five second-byte tables, each under its opcode byte (R80, R87 to R91). -/
def secondByteTables : List (Byte × (Byte → Option Tail)) :=
  [(0x88, T88), (0x8A, T8A), (0x8B, T8B), (0xFE, TFE), (0xFF, TFF)]

theorem opcodeEntry_eq_second_iff {table : Byte → Option Tail} :
    opcodeEntry m w op = some (.second table) ↔ (op, table) ∈ secondByteTables := by
  constructor
  · intro h
    simpa [opcodeRows, secondByteTables] using mem_of_lookup h
  · intro h
    simp only [secondByteTables, List.mem_cons, Prod.mk.injEq, List.not_mem_nil, or_false] at h
    rcases h with ⟨rfl, rfl⟩ | ⟨rfl, rfl⟩ | ⟨rfl, rfl⟩ | ⟨rfl, rfl⟩ | ⟨rfl, rfl⟩ <;> rfl

theorem takesSecondByte_iff : takesSecondByte op = true ↔ ∃ table, (op, table) ∈ secondByteTables := by
  rw [show takesSecondByte op = (secondByteTables.map Prod.fst).contains op from rfl]
  simp

/-- The lists of the statements name the second bytes that the tables give an entry to, in another order. -/
theorem definedSecondByte_iff {table : Byte → Option Tail} (h : (op, table) ∈ secondByteTables) :
    definedSecondByte op sb = true ↔ sb ∈ entriesOf table := by
  simp only [secondByteTables, List.mem_cons, Prod.mk.injEq, List.not_mem_nil, or_false] at h
  rcases h with ⟨rfl, rfl⟩ | ⟨rfl, rfl⟩ | ⟨rfl, rfl⟩ | ⟨rfl, rfl⟩ | ⟨rfl, rfl⟩
  · rw [T88_entries]
    exact List.contains_iff_mem
  · rw [T8A_entries]
    exact List.contains_iff_mem.trans (List.Perm.mem_iff (by decide))
  · rw [T8B_entries]
    exact List.contains_iff_mem.trans (List.Perm.mem_iff (by decide))
  · rw [TFE_entries]
    exact List.contains_iff_mem.trans (List.Perm.mem_iff (by decide))
  · rw [TFF_entries]
    exact List.contains_iff_mem.trans (List.Perm.mem_iff (by decide))

theorem table_eq_none_iff_undefined {table : Byte → Option Tail} (h : (op, table) ∈ secondByteTables) :
    table sb = none ↔ definedSecondByte op sb = false := by
  rw [table_eq_none_iff, ← definedSecondByte_iff h, Bool.not_eq_true]

theorem decode_eq_unsupportedSecondByte_iff {b : Window} :
    decode m w b = .unsupportedSecondByte op sb ↔
      op = b.b0 ∧ sb = b.b1 ∧ ∃ table, opcodeEntry m w op = some (.second table) ∧ table sb = none := by
  constructor
  · intro h
    unfold decode at h
    split at h
    case h_1 => cases h
    case h_2 => cases h
    case h_3 table ho =>
      split at h
      case h_1 ht =>
        cases h
        exact ⟨rfl, rfl, table, ho, ht⟩
      case h_2 => cases h
  · rintro ⟨rfl, rfl, table, ho, ht⟩
    simp only [decode, ho, ht]

end

/-! ## The obligations -/

/-- Settles O1: a case for each shape of instruction, each the decoding of that shape's bytes. -/
theorem decodeOfEncodeIsTheInstruction : Obligations.DecodeOfEncodeIsTheInstruction :=
  fun _ _ _ _ h => decode_encode h

/-- Settles O2: the tail that completes the instruction is well-formed and stands for the window's first bytes. -/
theorem decodedWindowBeginsWithEncoding : Obligations.DecodedWindowBeginsWithEncoding := by
  intro m w b i h
  obtain ⟨after, hafter⟩ := encode_prefix_of_decode h
  exact ⟨wf_of_decode h, after, hafter.symm⟩

/-- Settles O5: the decoder rejects a second byte where the opcode's table has none, and the tables' bytes are the listed
ones. -/
theorem reservedSecondBytesAreExactlyTheUnlisted : Obligations.ReservedSecondBytesAreExactlyTheUnlisted := by
  intro m w b op sb
  rw [decode_eq_unsupportedSecondByte_iff]
  refine and_congr_right fun _ => and_congr_right fun _ => ?_
  simp only [opcodeEntry_eq_second_iff, takesSecondByte_iff]
  constructor
  · rintro ⟨table, hop, hnone⟩
    exact ⟨⟨table, hop⟩, (table_eq_none_iff_undefined hop).mp hnone⟩
  · rintro ⟨⟨table, hop⟩, hundef⟩
    exact ⟨table, hop, (table_eq_none_iff_undefined hop).mpr hundef⟩

/-- Settles O3: each word is the encoding of its instruction, followed in some by bytes of the next. -/
theorem wordsOfEachFamilyDecode : Obligations.WordsOfEachFamilyDecode :=
  ⟨fun _ _ => decode_encode (i := .incBx) (after := [0xF4]) rfl,
    fun _ _ => decode_encode (i := .opsize) (after := [0x40]) rfl,
    fun _ _ => decode_encode (i := .movAlAh) (after := []) rfl,
    fun _ _ => decode_encode (i := .movDlA32 0x00020000) (after := []) rfl,
    fun _ _ => decode_encode (i := .movBxA16 0x0120) (after := []) rfl,
    fun _ _ => decode_encode (i := .nop) (after := []) rfl,
    fun _ => decode_encode (i := .movAlAddr (.a16 0x3210)) (after := [0xF4]) rfl,
    fun _ => decode_encode (i := .movAxAddr (.a32 0x12345678)) (after := []) rfl,
    fun _ _ => decode_encode (i := .movDhImm8 0xAB) (after := []) rfl,
    fun _ => decode_encode (i := .movCxImm (.i16 0x1234)) (after := [0x66, 0x40]) rfl,
    fun _ _ => decode_encode (i := .jmpRel8 0xFD) (after := []) rfl,
    fun _ _ => decode_encode (i := .hlt) (after := []) rfl,
    fun _ _ => decode_encode (i := .incBh) (after := []) rfl,
    fun _ _ => decode_encode (i := .incWordA32 0x00100000) (after := []) rfl⟩

end Sys2Proof.Machine
end

section
/-!
PROOFS. One iteration of the run loop, said once (spec/40_sequencer_and_prefix.md R110 to R112, spec/30_encoding.md R85): the
worker runs what the bytes at `EIP` decode to, after all the fetches of that instruction. Every instruction's dispatch follows
from its encoding.
-/

namespace Sys2Proof

section
variable {m : Mode} {w : Width} {hd : List Byte} {t : Tail} {x0 x1 x2 x3 : Byte}

/-! ## The length and the fetches of an instruction (R85) -/

theorem Tail.Completes.length_eq (h : t.Completes m w hd) :
    (t.read x0 x1 x2 x3).length = hd.length + t.sizes.sum := by
  rw [Instr.length, h.fetchSizes_eq]
  simp

theorem Tail.Completes.fetches_eq (h : t.Completes m w hd) :
    (t.read x0 x1 x2 x3).fetches = hd.length + t.sizes.length := by
  rw [Instr.fetches, h.fetchSizes_eq]
  simp

theorem Tail.field_length (t : Tail) (x0 x1 x2 x3 : Byte) : (t.field x0 x1 x2 x3).length = t.sizes.sum := by
  cases t <;> rfl

theorem opcode_of_decode {b : Window} {i : Instr} (h : decode m w b = .instr i) : i.opcode = b.b0 := by
  rcases decode_instr_cases h with ⟨t, -, hc, rfl⟩ | ⟨_, t, -, -, hc, rfl⟩ <;>
  · rw [Instr.opcode, hc.encode_eq]
    rfl

theorem length_of_decode {b : Window} {i : Instr} (h : decode m w b = .instr i) : i.length = i.encode.length := by
  rcases decode_instr_cases h with ⟨t, -, hc, rfl⟩ | ⟨_, t, -, -, hc, rfl⟩ <;>
    rw [hc.length_eq, hc.encode_eq, List.length_append, Tail.field_length]

end

end Sys2Proof

namespace Sys2Proof.Machine

section
variable {s t : State} {op : Byte}

/-! ## The state after the fetches -/

theorem advance_afterFetch (k n f : Nat) : advance k (s.afterFetch op n f) = s.afterFetch op (n + k) (f + 1) := by
  refine afterFetch_ext rfl ?eip ?clock rfl
  case eip => rw [advance_eip_toNat, afterFetch_eip_toNat, Nat.mod_add_mod, Nat.add_assoc]
  case clock =>
    rw [BitVec.ofNat_add, ← BitVec.add_assoc]
    rfl

theorem fetchAt_afterFetch (n f k : Nat) : fetchAt (s.afterFetch op n f) k = fetchAt s (n + k) := by
  unfold fetchAt
  rw [afterFetch_eip_toNat, Nat.mod_add_mod, Nat.add_assoc]
  rfl

theorem fetchTail_afterFetch (t : Tail) (n f : Nat) :
    (fetchTail t (s.afterFetch op n f)).2 = s.afterFetch op (n + t.sizes.sum) (f + t.sizes.length) := by
  cases t with
  | none _ => rfl
  | byte _ => exact advance_afterFetch 1 n f
  | word _ => exact advance_afterFetch 2 n f
  | dword _ => exact advance_afterFetch 4 n f

/-- A tail run after its leading bytes is the instruction that it completes, run after all of the instruction's fetches. -/
theorem runTail_afterFetch {m : Mode} {w : Width} {hd : List Byte} {t : Tail} (h : t.Completes m w hd) {i : Instr}
    (hi : i = t.read (fetchAt s hd.length) (fetchAt s (hd.length + 1)) (fetchAt s (hd.length + 2))
      (fetchAt s (hd.length + 3))) :
    runTail t (s.afterFetch op hd.length hd.length) = exec i (s.afterFetch op i.length i.fetches) := by
  have hread : (fetchTail t (s.afterFetch op hd.length hd.length)).1 = i := by
    simp only [fetchTail_eq, fetchAt_afterFetch, hi, Nat.add_zero]
  rw [runTail, hread, fetchTail_afterFetch, hi, h.length_eq, h.fetches_eq]

/-! ## One iteration of the run loop -/

/-- What the worker does in state `s` with what the window decodes to: run the instruction after its fetches, take the failure,
or have no next state. -/
def runDecoded (s : State) (d : Decoded) : Result :=
  match d with
  | .instr i => exec i (s.afterFetch i.opcode i.length i.fetches)
  | .invalidOpcode b => .next (raise (.invalidOpcode b) (fetchOpcode s))
  | .unsupportedSecondByte op sb => .refused (.unsupportedSecondByte op sb)

theorem workerStep_eq_runDecoded (hrun : s.halted = false) :
    workerStep s = runDecoded s (decode s.mode s.width s.window) := by
  have hfetch : fetchOpcode s = s.afterFetch (fetchAt s 0) 1 1 := fetchOpcode_eq_afterFetch rfl
  rw [workerStep_running hrun]
  cases ho : opcodeEntry s.mode s.width (fetchAt s 0) with
  | none =>
    have hd : decode s.mode s.width s.window = .invalidOpcode (fetchAt s 0) :=
      decode_eq_invalidOpcode_iff.mpr ⟨rfl, ho⟩
    rw [hd]
    exact dispatch_of_opcodeEntry_none ho
  | some e =>
    cases e with
    | single t =>
      have hd := decode_single (b := s.window) ho
      have hop := opcode_of_decode hd
      rw [hd, runDecoded, hop, dispatch, fetchOpcode_mode, fetchOpcode_width, fetchOpcode_current, ho, hfetch]
      exact runTail_afterFetch (opcodeEntry_completes ho) rfl
    | second table =>
      rw [dispatch, fetchOpcode_mode, fetchOpcode_width, fetchOpcode_current, ho]
      have hsb : (fetchByte (fetchOpcode s)).1 = fetchAt s 1 := fetchAt_fetchOpcode s 0
      cases ht : table (fetchAt s 1) with
      | none =>
        have hd : decode s.mode s.width s.window = .unsupportedSecondByte (fetchAt s 0) (fetchAt s 1) :=
          decode_eq_unsupportedSecondByte_iff.mpr ⟨rfl, rfl, table, ho, ht⟩
        simp only [hsb, ht, hd, runDecoded]
      | some t =>
        have hd := decode_second (b := s.window) ho ht
        have hop := opcode_of_decode hd
        have hfetch2 : (fetchByte (fetchOpcode s)).2 = s.afterFetch (fetchAt s 0) 2 2 :=
          advance_fetchOpcode_eq_afterFetch rfl
        simp only [hsb, ht, hfetch2]
        rw [hd, runDecoded, hop]
        exact runTail_afterFetch (opcodeEntry_completes ho _ t ht) rfl

/-- All that an iteration can answer: the decoded instruction's next state, or the failure at a byte without an entry. -/
theorem workerStep_cases (hrun : s.halted = false) (h : workerStep s = .next t) :
    (∃ i, decode s.mode s.width s.window = .instr i ∧ i.opcode = fetchAt s 0 ∧ supportedOpcode (fetchAt s 0) = true ∧
      exec i (s.afterFetch i.opcode i.length i.fetches) = .next t) ∨
    (supportedOpcode (fetchAt s 0) = false ∧ t = raise (.invalidOpcode (fetchAt s 0)) (fetchOpcode s)) := by
  rw [workerStep_eq_runDecoded hrun] at h
  cases hd : decode s.mode s.width s.window with
  | instr i =>
    rw [hd] at h
    refine .inl ⟨i, rfl, opcode_of_decode hd, ?_, h⟩
    by_contra hsup
    have hnone : opcodeEntry s.mode s.width (fetchAt s 0) = none :=
      opcodeEntry_eq_none_iff.mpr (Bool.eq_false_of_not_eq_true hsup)
    rw [decode_eq_invalidOpcode_iff.mpr ⟨rfl, hnone⟩] at hd
    cases hd
  | invalidOpcode b =>
    obtain ⟨rfl, ho⟩ := decode_eq_invalidOpcode_iff.mp hd
    rw [hd] at h
    exact .inr ⟨opcodeEntry_eq_none_iff.mp ho, (Host.Outcome.next.inj h).symm⟩
  | unsupportedSecondByte op sb =>
    rw [hd] at h
    cases h

/-- A step in which the worker moves runs what the window decodes to, with the worker's move taken from the queue. -/
theorem step_eq_runDecoded (hrun : s.halted = false) (hmove : s.agenda = [] ∨ ∃ rest, s.agenda = .worker :: rest) :
    step s = runDecoded { s with agenda := s.agenda.tail } (decode s.mode s.width s.window) :=
  (step_eq_workerStep_tail hmove).trans (workerStep_eq_runDecoded (s := { s with agenda := s.agenda.tail }) hrun)

/-! ## Dispatching from the encoding -/

/-- The window begins with the bytes that stand at `EIP`. -/
theorem window_of_bytesAtEip {l : List Byte} (h : BytesAtEip s l) (hl : l.length ≤ 6) :
    ∃ after, s.window = Window.ofBytes (l ++ after) := by
  have hprefix : l <+: (List.range 6).map (fetchAt s) := by
    rw [List.prefix_iff_getElem?]
    intro k hk
    simp only [List.getElem?_map, List.getElem?_range (show k < 6 by omega), Option.map_some]
    exact congrArg some (h k l[k] (List.getElem?_eq_getElem hk))
  obtain ⟨after, hafter⟩ := hprefix
  exact ⟨after, by rw [hafter]; rfl⟩

theorem encode_length_le {m : Mode} {w : Width} {i : Instr} (h : i.wf m w = true) : i.encode.length ≤ 6 :=
  (encode_prefix_of_decode (decode_encode (after := []) h)).length_le

theorem decode_of_bytesAtEip {i : Instr} (hb : BytesAtEip s i.encode) (hwf : i.wf s.mode s.width = true) :
    decode s.mode s.width s.window = .instr i := by
  obtain ⟨after, hwindow⟩ := window_of_bytesAtEip hb (encode_length_le hwf)
  rw [hwindow]
  exact decode_encode hwf

/-- The bytes of an instruction dispatch it in every state where it is well-formed. -/
theorem dispatches_of_encode {ctx : State → Prop} {rest : List Byte} {f : Nat} {i : Instr} (he : i.encode = op :: rest)
    (hf : i.fetches = f) (hwf : ∀ s, ctx s → i.wf s.mode s.width = true) : Dispatches ctx op rest f i := by
  intro s ⟨hrun, hq⟩ hctx hb
  have hd : decode s.mode s.width s.window = .instr i := decode_of_bytesAtEip (he ▸ hb) (hwf s hctx)
  have hop : i.opcode = op := by rw [Instr.opcode, he, List.headD_cons]
  have hlen : i.length = rest.length + 1 := by rw [length_of_decode hd, he, List.length_cons]
  rw [step_nil hq, workerStep_eq_runDecoded hrun, hd, runDecoded, hop, hlen, hf]

end

/-! ## The obligations -/

/-- Settles O6: the step is the worker's iteration, which runs what the window decodes to. -/
theorem stepRunsTheDecodedInstruction : Obligations.StepRunsTheDecodedInstruction := by
  intro s i hrun hmove hd
  rw [step_eq_runDecoded hrun hmove, hd, runDecoded]

/-- Settles O8: the window decodes to the rejection, and the worker answers it with no next state. -/
theorem reservedSecondByteIsRefused : Obligations.ReservedSecondByteIsRefused := by
  intro s op sb hrun hmove hb htakes hundef
  have hop : fetchAt s 0 = op := hb.fetchAt_eq rfl
  have hsb : fetchAt s 1 = sb := hb.fetchAt_eq rfl
  have hd : decode s.mode s.width s.window = .unsupportedSecondByte op sb :=
    (reservedSecondBytesAreExactlyTheUnlisted ..).mpr ⟨hop.symm, hsb.symm, htakes, hundef⟩
  rw [step_eq_runDecoded hrun hmove, hd, runDecoded]

end Sys2Proof.Machine
end

section
/-!
PROOFS. What an instruction does to a state, from its effect: it completes or takes `MemoryFault`
(spec/40_sequencer_and_prefix.md R113, R120), what it never writes (spec/10_state.md R26 to R36), and that only the memory
increments store (spec/20_memory.md R68).
-/

namespace Sys2Proof.Machine

section
variable {i : Instr} {s t : State}

/-! ## The end of a dispatch (R113, R120) -/

/-- `t` is `s` after a completed dispatch, as far as the epilogue goes: its three updates, and no failure recorded. -/
def Completed (s t : State) : Prop :=
  t.lookback = s.current ∧ t.instr = s.instr + 1 ∧ t.clock = s.clock + 1 ∧ t.fault = s.fault

theorem completed_epilogue (s : State) : Completed s (epilogue s) := ⟨rfl, rfl, rfl, rfl⟩

/-- A completed write lies in the store. -/
theorem Stored.inside {a : Word32} {n : Nat} {u : State} (h : Stored a n s u) : a.toNat + n ≤ Config.memSize := h.1

/-- A completed store has changed memory alone. -/
theorem Stored.exists_mem {a : Word32} {n : Nat} {u : State} (h : Stored a n s u) :
    ∃ m : Memory, u = { s with mem := m } ∧ (s.mem.wf = true → m.wf = true) := by
  obtain ⟨-, hu, hwf, -⟩ := h
  exact ⟨u.mem, hu, hwf⟩

/-- An instruction completes when its access lies in the store, and takes `MemoryFault` when it does not. -/
theorem exec_completes_or_faults (h : exec i s = .next t) :
    (AccessInside i s ∧ Completed s t) ∨
    (∃ a n, accessOf s.width i = some (a, n) ∧ Config.memSize < (effective a).toNat + n ∧
      t = raise (.memoryFault (effective a)) s) := by
  cases exec_effect h with
  | regs g _ inside _ => exact .inl ⟨inside, completed_epilogue _⟩
  | store a n u stored access _ _ =>
    obtain ⟨m, rfl, -⟩ := stored.exists_mem
    exact .inl ⟨accessInside_of_some access stored.inside, completed_epilogue _⟩
  | fault a n access outside _ => exact .inr ⟨a, n, access, outside, rfl⟩
  | jump isJump => exact .inl ⟨accessInside_of_none (isJump ▸ rfl), completed_epilogue _⟩
  | halt isHlt => exact .inl ⟨accessInside_of_none (isHlt ▸ rfl), completed_epilogue _⟩

/-- A dispatch that has counted an instruction has completed. -/
theorem exec_completed (h : exec i s = .next t) (hn : t.instr ≠ s.instr) : Completed s t := by
  rcases exec_completes_or_faults h with ⟨-, hc⟩ | ⟨_, _, -, -, rfl⟩
  · exact hc
  · exact absurd rfl hn

/-! ## Memory (R60, R68) -/

/-- The instructions that store are the memory forms of 0xFE and 0xFF. -/
theorem storesMemory_cases (h : storesMemory i = true) :
    (∃ a, i = .incByteA16 a ∨ i = .incWordA16 a) ∨ ∃ a, i = .incByteA32 a ∨ i = .incWordA32 a := by
  unfold storesMemory at h
  split at h
  · exact .inl ⟨_, .inl rfl⟩
  · exact .inr ⟨_, .inl rfl⟩
  · exact .inl ⟨_, .inr rfl⟩
  · exact .inr ⟨_, .inr rfl⟩
  · cases h

theorem exec_mem_of_not_stores (h : exec i s = .next t) (hs : storesMemory i = false) : t.mem = s.mem := by
  cases exec_effect h with
  | regs | fault | jump | halt => rfl
  | store _ _ _ _ _ _ stores => rw [hs] at stores; cases stores

/-! ## What no instruction writes -/

/-- The frame of every instruction, whatever its effect. -/
theorem exec_frame (h : exec i s = .next t) :
    t.mode = s.mode ∧ t.current = s.current ∧ t.started = s.started ∧
    t.regs.esp = s.regs.esp ∧ t.regs.ebp = s.regs.ebp ∧ t.regs.esi = s.regs.esi ∧ t.regs.edi = s.regs.edi ∧
    t.instrOld = s.instrOld ∧ t.instrDelta = s.instrDelta ∧ t.clockOld = s.clockOld ∧ t.clockDelta = s.clockDelta ∧
    t.agenda = s.agenda ∧ t.draws = s.draws ∧ t.view = s.view := by
  cases exec_effect h with
  | regs g unreached _ _ =>
    obtain ⟨hesp, hebp, hesi, hedi⟩ := unreached
    exact ⟨rfl, rfl, rfl, hesp, hebp, hesi, hedi, rfl, rfl, rfl, rfl, rfl, rfl, rfl⟩
  | store a n u stored _ _ _ =>
    obtain ⟨m, rfl, -⟩ := stored.exists_mem
    exact ⟨rfl, rfl, rfl, rfl, rfl, rfl, rfl, rfl, rfl, rfl, rfl, rfl, rfl, rfl⟩
  | fault | jump | halt => exact ⟨rfl, rfl, rfl, rfl, rfl, rfl, rfl, rfl, rfl, rfl, rfl, rfl, rfl, rfl⟩

theorem exec_mode (h : exec i s = .next t) : t.mode = s.mode := (exec_frame h).1

theorem exec_started (h : exec i s = .next t) : t.started = s.started := (exec_frame h).2.2.1

/-- Only HLT and a failure set `Halted` (R33). -/
theorem exec_halted (h : exec i s = .next t) (hi : i ≠ .hlt) (hn : t.instr ≠ s.instr) : t.halted = s.halted := by
  cases exec_effect h with
  | regs | jump => rfl
  | store a n u stored _ _ _ =>
    obtain ⟨m, rfl, -⟩ := stored.exists_mem
    rfl
  | fault => exact absurd rfl hn
  | halt isHlt => exact absurd isHlt hi

/-- Only 0xEB writes `EIP` after the fetch (R28). -/
theorem exec_eip (h : exec i s = .next t) (hi : ∀ v, i ≠ .jmpRel8 v) : t.eip = s.eip := by
  cases exec_effect h with
  | regs | fault | halt => rfl
  | store a n u stored _ _ _ =>
    obtain ⟨m, rfl, -⟩ := stored.exists_mem
    rfl
  | jump isJump => exact absurd isJump (hi _)

end

/-! ## The obligations -/

/-- Settles O14: the two ways an instruction ends exclude each other by its access. -/
theorem instructionsCompleteOrTakeMemoryFault : Obligations.InstructionsCompleteOrTakeMemoryFault := by
  intro i s
  obtain ⟨t, ht⟩ := exec_answers i s
  refine ⟨t, ht, ?_⟩
  rcases exec_completes_or_faults ht with ⟨hin, hc⟩ | ⟨b, k, hb, hout, rfl⟩
  case inl =>
    exact ⟨fun _ => hc, fun a n ha hout => absurd (hin a n ha) (by omega)⟩
  case inr =>
    refine ⟨fun hin => absurd (hin b k hb) (by omega), fun a n ha _ => ?_⟩
    rw [hb] at ha
    cases ha
    rfl

/-- Settles O15: the frame of every effect, and the one effect each that sets `Halted` and writes `EIP`. -/
theorem whatNoInstructionWrites : Obligations.WhatNoInstructionWrites := by
  intro i s t h
  obtain ⟨hmode, hcur, hstarted, hesp, hebp, hesi, hedi, hio, hid, hco, hcd, hagenda, hdraws, hview⟩ := exec_frame h
  refine ⟨hmode, hcur, hstarted, hesp, hebp, hesi, hedi, hio, hid, hco, hcd, hagenda, hdraws, hview, ?halted, exec_eip h⟩
  case halted =>
    intro hi hinstr
    exact exec_halted h hi (hinstr ▸ (counter_ne_succ _).symm)

/-- Settles O16: an instruction that is no memory form of 0xFE or 0xFF keeps memory as it is. -/
theorem onlyMemoryIncrementsStore : Obligations.OnlyMemoryIncrementsStore := by
  intro i s t h h16 h32 x
  have hs : storesMemory i = false := by
    by_contra hs
    rcases storesMemory_cases (Bool.eq_true_of_not_eq_false hs) with ⟨a, ha⟩ | ⟨a, ha⟩
    · exact ha.elim (h16 a).1 (h16 a).2
    · exact ha.elim (h32 a).1 (h32 a).2
  rw [exec_mem_of_not_stores h hs]

end Sys2Proof.Machine
end

section
/-!
PROOFS. The run loop and the queue of moves: what a completed iteration costs and records (spec/30_encoding.md R85,
spec/40_sequencer_and_prefix.md R113 to R119), the invariant (spec/10_state.md R42), and how a run ends
(spec/70_reset_and_hazards.md R255).
-/

namespace Sys2Proof

/-! ## The shapes of the length table (R85) -/

theorem fetchSizes_mem (i : Instr) : i.fetchSizes ∈ [[1], [1, 1], [1, 2], [1, 4], [1, 1, 2], [1, 1, 4]] := by
  have hwidth : ∀ w : Width, [1, w.bytes] ∈ [[1], [1, 1], [1, 2], [1, 4], [1, 1, 2], [1, 1, 4]] := by
    rintro (_ | _) <;> decide
  unfold Instr.fetchSizes
  split
  case h_1 | h_2 | h_3 | h_4 | h_5 | h_6 => exact hwidth _
  all_goals decide

/-- The number of `Fetch` calls by the length in bytes. -/
theorem fetches_of_length (i : Instr) :
    (i.length = 1 → i.fetches = 1) ∧ (i.length = 2 ∨ i.length = 3 ∨ i.length = 5 → i.fetches = 2) ∧
      (i.length = 4 ∨ i.length = 6 → i.fetches = 3) := by
  have h := fetchSizes_mem i
  simp only [List.mem_cons, List.not_mem_nil, or_false] at h
  unfold Instr.length Instr.fetches
  rcases h with h | h | h | h | h | h <;> rw [h] <;> decide

end Sys2Proof

namespace Sys2Proof.Machine

/-! ## The operand width by `Mode` and `Lookback` (R114) -/

/-- Without the override, W is the default width of the mode. -/
theorem operandWidth_of_ne_prefix (m : Mode) {x : Byte} (h : x ≠ 0x66#8) : operandWidth m x = m.width := by
  have hx : (x == prefixByte) = false := beq_false_of_ne h
  rw [operandWidth, hx]
  cases m <;> rfl

section
variable {s t : State}

/-! ## What an iteration records -/

theorem fetchAt_zero_of_lt (h : s.eip.toNat < Config.memSize) : fetchAt s 0 = s.mem.read s.eip.toNat := by
  rw [fetchAt, Nat.add_zero, Nat.mod_eq_of_lt h]

/-- An iteration that counts an instruction records the byte at `EIP`; one that does not keeps `Lookback` (D8). -/
theorem workerStep_lookback (h : workerStep s = .next t) (hrun : s.halted = false) :
    (t.instr = s.instr + 1 ∧ t.lookback = fetchAt s 0) ∨ (t.instr = s.instr ∧ t.lookback = s.lookback) := by
  rcases workerStep_cases hrun h with ⟨i, -, hop, -, hexec⟩ | ⟨-, rfl⟩
  · rcases exec_completes_or_faults hexec with ⟨-, hlookback, hinstr, -, -⟩ | ⟨_, _, -, -, rfl⟩
    · exact .inl ⟨hinstr, hlookback.trans hop⟩
    · exact .inr ⟨rfl, rfl⟩
  · exact .inr ⟨rfl, rfl⟩

theorem workerStep_lookback_of_completed (h : workerStep s = .next t) (hrun : s.halted = false)
    (hn : t.instr = s.instr + 1) : t.lookback = s.mem.read (s.eip.toNat % Config.memSize) := by
  rcases workerStep_lookback h hrun with ⟨-, hl⟩ | ⟨hsame, -⟩
  · exact hl
  · exact absurd (hsame.symm.trans hn) (counter_ne_succ _)

/-- The worker of a halted engine answers the same state (log 14). -/
theorem eq_of_workerStep_halted (h : workerStep s = .next t) (hhalted : s.halted = true) : t = s := by
  rw [workerStep_halted hhalted] at h
  exact (Host.Outcome.next.inj h).symm

theorem workerStep_mode (h : workerStep s = .next t) (hrun : s.halted = false) : t.mode = s.mode := by
  rcases workerStep_cases hrun h with ⟨_, -, -, -, hexec⟩ | ⟨-, rfl⟩
  · exact (exec_mode hexec).trans rfl
  · rfl

/-! ## The moves of the queue: all that a step can do -/

/-- The next states of a step, by the agent that moves. -/
inductive Stepped (s : State) : State → Prop where
  | worker {t : State} (rest : List Move) (moved : workerStep { s with agenda := rest } = .next t) : Stepped s t
  | construct (m : Mode) (c : Memory) (rest : List Move) (named : s.agenda = .construct m c :: rest) :
      Stepped s { State.construct m (Memory.ofCells c) with agenda := rest, draws := s.draws, view := s.view }
  | load (a : Nat) (v : Byte) (rest : List Move) (stopped : s.started = false) (inside : a < Config.memSize) :
      Stepped s { s with agenda := rest, mem := s.mem.write a v }
  | start (rest : List Move) (stopped : s.started = false) :
      Stepped s { s with agenda := rest, halted := false, started := true }
  | stop (rest : List Move) : Stepped s { s with agenda := rest, halted := true }
  | sample (rest : List Move) (io d co e : Counter) :
      Stepped s (({ s with agenda := rest } : State).withSnapshots io d co e)
  | read (rest : List Move) (v : Option View) (k : Nat) : Stepped s { s with agenda := rest, view := v, draws := k }

theorem step_stepped (h : step s = .next t) : Stepped s t := by
  cases hq : s.agenda with
  | nil =>
    rw [step_nil hq] at h
    refine .worker [] ?_
    rw [← hq]
    exact h
  | cons m rest =>
    rw [step_cons hq] at h
    cases m with
    | worker => exact .worker rest h
    | sampleInstr =>
      cases h
      exact .sample rest s.instr (s.instr - s.instrOld) s.clockOld s.clockDelta
    | sampleClock =>
      cases h
      exact .sample rest s.instrOld s.instrDelta s.clock (s.clock - s.clockOld)
    | construct m c =>
      cases h
      exact .construct m c rest hq
    | load a v =>
      simp only [perform, hostLoad] at h
      split at h
      · cases h
      · next hstopped =>
        split at h
        · next hin =>
          cases h
          exact .load a v rest (Bool.eq_false_of_not_eq_true hstopped) hin
        · cases h
    | start =>
      simp only [perform, hostStart] at h
      split at h
      · cases h
      · next hstopped =>
        cases h
        exact .start rest (Bool.eq_false_of_not_eq_true hstopped)
    | stop =>
      cases h
      exact .stop rest
    | read =>
      simp only [perform, hostRead] at h
      split at h <;>
      · cases h
        exact .read rest _ _

/-! ## The invariant -/

/-- The invariant looks at these fields alone, and setting `Halted` never breaks it. -/
theorem State.Inv.of_fields (h : s.Inv) (hregs : t.regs = s.regs) (heip : t.eip = s.eip) (hmem : t.mem = s.mem)
    (hlookback : t.lookback = s.lookback) (hstarted : t.started = s.started) (hfault : t.fault = s.fault)
    (hinstr : t.instr = s.instr) (hclock : t.clock = s.clock) (hhalted : t.halted = s.halted ∨ t.halted = true) :
    t.Inv where
  memory := hmem ▸ h.memory
  eip := heip ▸ h.eip
  running hrun := by
    rw [hstarted, hfault]
    exact h.running (hhalted.elim (fun e => e ▸ hrun) fun e => absurd (hrun.symm.trans e) nofun)
  fresh := by
    rw [hregs, heip, hlookback, hstarted, hfault, hinstr, hclock]
    exact h.fresh
  lookback := hlookback ▸ h.lookback
  unreached := hregs ▸ h.unreached

theorem construct_inv (m : Mode) {c : Memory} (hc : c.wf = true) : (State.construct m c).Inv where
  memory := hc
  eip := show (0 : Word32).toNat < Config.memSize by decide
  running := nofun
  fresh _ := ⟨rfl, rfl, rfl, rfl, rfl, rfl⟩
  lookback := .inl rfl
  unreached := ⟨rfl, rfl, rfl, rfl⟩

/-- A load before `Start` keeps the invariant: memory stays canonical and is no part of what `fresh` says. -/
theorem State.Inv.load (h : s.Inv) {a : Nat} (v : Byte) (ha : a < Config.memSize) (rest : List Move) :
    ({ s with agenda := rest, mem := s.mem.write a v } : State).Inv where
  memory := Memory.write_wf h.memory ha
  eip := h.eip
  running := h.running
  fresh := h.fresh
  lookback := h.lookback
  unreached := h.unreached

/-- `Start` keeps the invariant: before it no failure has been recorded. -/
theorem State.Inv.start (h : s.Inv) (hstopped : s.started = false) (rest : List Move) :
    ({ s with agenda := rest, halted := false, started := true } : State).Inv where
  memory := h.memory
  eip := h.eip
  running _ := by
    obtain ⟨-, -, -, hfault, -, -⟩ := h.fresh hstopped
    exact ⟨rfl, hfault⟩
  fresh := nofun
  lookback := h.lookback
  unreached := h.unreached

/-! ### The invariant of a running engine

Once the engine has been started, nothing is left of `fresh`. -/

theorem exec_mem_wf {i : Instr} (h : exec i s = .next t) (hw : s.mem.wf = true) : t.mem.wf = true := by
  cases exec_effect h with
  | regs | fault | jump | halt => exact hw
  | store _ _ _ stored _ _ _ =>
    obtain ⟨m, rfl, hwf⟩ := stored.exists_mem
    exact hwf hw

theorem exec_eip_lt {i : Instr} (h : exec i s = .next t) (he : s.eip.toNat < Config.memSize) :
    t.eip.toNat < Config.memSize := by
  by_cases hj : ∃ v, i = .jmpRel8 v
  · obtain ⟨v, rfl⟩ := hj
    obtain rfl := jump_next h
    rw [epilogue_eip, jumpTarget_toNat]
    exact (Nat.mod_lt _ (by decide)).trans (by decide)
  · rw [exec_eip h (not_exists.mp hj)]
    exact he

/-- An instruction whose opcode byte is a supported one keeps the invariant of a running engine. -/
theorem exec_keeps_inv {i : Instr} (h : exec i s = .next t) (hi : s.Inv) (hrun : s.halted = false)
    (hcur : supportedOpcode s.current = true) : t.Inv := by
  obtain ⟨hstarted, hfault⟩ := hi.running hrun
  obtain ⟨-, -, hstarted', hesp, hebp, hesi, hedi, -⟩ := exec_frame h
  obtain ⟨sesp, sebp, sesi, sedi⟩ := hi.unreached
  refine
    { memory := exec_mem_wf h hi.memory
      eip := exec_eip_lt h hi.eip
      running := fun hrun' => ⟨hstarted'.trans hstarted, ?fault⟩
      fresh := fun hfresh => absurd (hfresh.symm.trans (hstarted'.trans hstarted)) nofun
      lookback := ?lookback
      unreached := ⟨hesp.trans sesp, hebp.trans sebp, hesi.trans sesi, hedi.trans sedi⟩ }
  case fault =>
    rcases exec_completes_or_faults h with ⟨-, -, -, -, hf⟩ | ⟨_, _, -, -, rfl⟩
    · exact hf.trans hfault
    · cases hrun'
  case lookback =>
    rcases exec_completes_or_faults h with ⟨-, hl, -⟩ | ⟨_, _, -, -, rfl⟩
    · exact .inr (hl ▸ hcur)
    · exact hi.lookback

/-- The fetches of a running engine keep the invariant. -/
theorem State.Inv.afterFetch (h : s.Inv) (hrun : s.halted = false) (op : Byte) (n f : Nat) :
    (s.afterFetch op n f).Inv where
  memory := h.memory
  eip := by
    rw [afterFetch_eip_toNat]
    exact Nat.mod_lt _ (by decide)
  running := h.running
  fresh hfresh := absurd (hfresh.symm.trans (h.running hrun).1) nofun
  lookback := h.lookback
  unreached := h.unreached

/-- Taking a failure in a started engine keeps the invariant. -/
theorem State.Inv.raise (h : s.Inv) (hstarted : s.started = true) (f : Failure) : (raise f s).Inv where
  memory := h.memory
  eip := h.eip
  running := nofun
  fresh hfresh := absurd (hfresh.symm.trans hstarted) nofun
  lookback := h.lookback
  unreached := h.unreached

theorem workerStep_keeps_inv (h : workerStep s = .next t) (hi : s.Inv) : t.Inv := by
  cases hrun : s.halted with
  | true => exact eq_of_workerStep_halted h hrun ▸ hi
  | false =>
    rcases workerStep_cases hrun h with ⟨i, -, hop, hsup, hexec⟩ | ⟨-, rfl⟩
    · exact exec_keeps_inv hexec (hi.afterFetch hrun ..) hrun (hop.symm ▸ hsup)
    · rw [fetchOpcode_eq_afterFetch rfl]
      exact (hi.afterFetch hrun ..).raise (hi.running hrun).1 _

theorem step_keeps_inv (hi : s.Inv) (h : step s = .next t) : t.Inv := by
  cases step_stepped h with
  | worker rest moved =>
    exact workerStep_keeps_inv moved (hi.of_fields rfl rfl rfl rfl rfl rfl rfl rfl (.inl rfl))
  | construct m c rest _ =>
    exact (construct_inv m (Memory.ofCells_wf c)).of_fields rfl rfl rfl rfl rfl rfl rfl rfl (.inl rfl)
  | load a v rest _ inside => exact hi.load v inside rest
  | start rest stopped => exact hi.start stopped rest
  | stop => exact hi.of_fields rfl rfl rfl rfl rfl rfl rfl rfl (.inr rfl)
  | sample | read => exact hi.of_fields rfl rfl rfl rfl rfl rfl rfl rfl (.inl rfl)

/-! ## Run states (R33) -/

theorem runState_eq_halted_iff : s.runState = .halted ↔ s.halted = true ∧ s.started = true := by
  unfold State.runState
  cases s.halted <;> cases s.started <;> decide

theorem runState_eq_stopped_iff : s.runState = .stopped ↔ s.halted = true ∧ s.started = false := by
  unfold State.runState
  cases s.halted <;> cases s.started <;> decide

end

/-! ## The obligations -/

/-- Settles O12: a case for each agent; the worker's by the effect of the instruction it runs. -/
theorem stepKeepsTheInvariant : Obligations.StepKeepsTheInvariant := fun _ _ => step_keeps_inv

/-- Settles O13: reset is the construction with nothing listed in memory. -/
theorem constructionMeetsTheInvariant : Obligations.ConstructionMeetsTheInvariant :=
  ⟨fun m _ hc => construct_inv m hc, construct_inv Config.initMode Memory.wf_nil⟩

/-- Settles O9: the fetches by the length, and the epilogue's tick of a completed dispatch. -/
theorem lengthAndTicksOfCompletedInstructions : Obligations.LengthAndTicksOfCompletedInstructions := by
  intro s t i hrun hd h hn
  rw [workerStep_eq_runDecoded hrun, hd] at h
  obtain ⟨-, hinstr, hclock, -⟩ := exec_completed h hn
  obtain ⟨hone, htwo, hthree⟩ := fetches_of_length i
  have hticks : t.clock = s.clock + (BitVec.ofNat 64 i.fetches + 1) := hclock.trans (BitVec.add_assoc ..)
  rw [← length_of_decode hd]
  refine ⟨hinstr, fun hl => ?one, fun hl => ?two, fun hl => ?three, fun hjmp => ?eip⟩
  case one => rw [hticks, hone hl]; rfl
  case two => rw [hticks, htwo hl]; rfl
  case three => rw [hticks, hthree hl]; rfl
  case eip => rw [exec_eip h hjmp, afterFetch_eip_toNat]

/-- Settles O10: `Mode` stays and `Lookback` is the dispatched byte, so W is the truth table's row for them. -/
theorem overrideLastsForOneInstruction : Obligations.OverrideLastsForOneInstruction := by
  intro s t hrun h hn
  have hw : t.width = operandWidth s.mode (s.mem.read (s.eip.toNat % Config.memSize)) := by
    rw [State.width, workerStep_mode h hrun, workerStep_lookback_of_completed h hrun hn]
  rw [hw]
  split_ifs with hp
  case pos => rw [hp]; cases s.mode <;> rfl
  case neg => rw [operandWidth_of_ne_prefix s.mode hp]; cases s.mode <;> rfl

/-- Settles O11: the laws of `Fetch` and of the view writes, and what each agent's move does to `Lookback`. -/
theorem sourceInvariantsOfFetchViewsAndLookback : Obligations.SourceInvariantsOfFetchViewsAndLookback := by
  refine ⟨fun s => ⟨advance_eip_lt 1 s, advance_eip_lt 2 s, advance_eip_lt 4 s⟩,
    fun s d v => onlyReg8_of_regs rfl, fun s r v => writesWord_of_regs rfl,
    fun s t hrun h hn => workerStep_lookback_of_completed h hrun hn, fun s t h => ?lookback, fun _ _ => rfl⟩
  case lookback =>
    cases step_stepped h with
    | worker rest moved =>
      cases hrun : s.halted with
      | true =>
        obtain rfl := eq_of_workerStep_halted moved hrun
        exact .inr (.inr rfl)
      | false =>
        rcases workerStep_lookback moved hrun with ⟨hinstr, -⟩ | ⟨-, hl⟩
        · exact .inl hinstr
        · exact .inr (.inr hl)
    | construct m c rest named => exact .inr (.inl ⟨m, c, by rw [named]; rfl⟩)
    | load | start | stop | sample | read => exact .inr (.inr rfl)

/-- Settles O19: of the moves, only a construction leaves run state `Halted`; a load and a `Start` have no next state in it. -/
theorem haltedIsTerminal : Obligations.HaltedIsTerminal := by
  intro s t hs h
  obtain ⟨hhalted, hstarted⟩ := runState_eq_halted_iff.mp hs
  cases step_stepped h with
  | worker rest moved =>
    obtain rfl := eq_of_workerStep_halted moved hhalted
    exact .inr ⟨hs, rfl, rfl, rfl, rfl, rfl, rfl, rfl, fun _ => rfl⟩
  | construct m c rest named => exact .inl ⟨m, c, by rw [named]; rfl⟩
  | load _ _ _ stopped _ => exact absurd (stopped.symm.trans hstarted) nofun
  | start _ stopped => exact absurd (stopped.symm.trans hstarted) nofun
  | stop => exact .inr ⟨runState_eq_halted_iff.mpr ⟨rfl, hstarted⟩, rfl, rfl, rfl, rfl, rfl, rfl, rfl, fun _ => rfl⟩
  | sample | read => exact .inr ⟨hs, rfl, rfl, rfl, rfl, rfl, rfl, rfl, fun _ => rfl⟩

/-- Settles O20: an iteration that halts has run HLT, has met a byte without an entry, or has run an instruction whose access
lies outside the store. -/
theorem causesOfTheEndOfARun : Obligations.CausesOfTheEndOfARun := by
  intro s t hi hrun h hhalted
  obtain ⟨hstarted, hfault⟩ := hi.running hrun
  rw [← fetchAt_zero_of_lt hi.eip]
  rcases workerStep_cases hrun h with ⟨i, hd, hop, -, hexec⟩ | ⟨hsup, rfl⟩
  case inr => exact .inr (.inl ⟨rfl, hsup, rfl, rfl, rfl, rfl⟩)
  case inl =>
    rcases exec_completes_or_faults hexec with ⟨-, hl, hinstr, -, hf⟩ | ⟨a, n, ha, hout, rfl⟩
    case inr => exact .inr (.inr ⟨i, a, n, hd, ha, hout, rfl, rfl, rfl, rfl, rfl⟩)
    case inl =>
      obtain rfl : i = .hlt := by
        by_contra hne
        have hkeeps := exec_halted hexec hne (hinstr ▸ (counter_ne_succ _).symm)
        rw [hhalted] at hkeeps
        exact absurd (hkeeps.trans hrun) nofun
      have hstarted' : t.started = true := (exec_started hexec).trans hstarted
      exact .inl ⟨⟨runState_eq_halted_iff.mpr ⟨hhalted, hstarted'⟩, hf.trans hfault, hl⟩, hop.symm, hinstr⟩

end Sys2Proof.Machine
end

section
/-!
PROOFS. The other agents and the byte store: the sampler (spec/60_exceptions.md R231), the host
(spec/70_reset_and_hazards.md R250 to R254), and memory by its contents (spec/20_memory.md R50 to R56).
-/

namespace Sys2Proof.Machine

section
variable {s : State}

/-! ## The contents of memory (R50) -/

/-- Outside the store a canonical memory lists nothing. -/
theorem Memory.read_outside {m : Memory} (h : m.wf = true) {x : Nat} (hx : Config.memSize ≤ x) :
    m.read x = Memory.unlisted := by
  induction m with
  | nil => rfl
  | cons c m ih =>
    obtain ⟨a, b⟩ := c
    obtain ⟨ha, -, -, hm⟩ := Memory.wf_cons.mp h
    rw [Memory.read_cons, if_neg (by omega), ih hm]

/-- Canonical memories that agree inside the store are the same memory. -/
theorem Memory.ext_of_wf_inside {m n : Memory} (hm : m.wf = true) (hn : n.wf = true)
    (h : ∀ x, x < Config.memSize → m.read x = n.read x) : m = n := by
  refine Memory.ext_of_wf hm hn fun x => ?_
  rcases Nat.lt_or_ge x Config.memSize with hin | hout
  · exact h x hin
  · rw [Memory.read_outside hm hout, Memory.read_outside hn hout]

/-- Any contents of the first `n` bytes stand in some canonical memory: written one after the other. -/
theorem Memory.exists_wf_read (f : Nat → Byte) (n : Nat) (hn : n ≤ Config.memSize) :
    ∃ m : Memory, m.wf = true ∧ ∀ x, x < n → m.read x = f x := by
  induction n with
  | zero => exact ⟨[], rfl, fun x hx => absurd hx (Nat.not_lt_zero x)⟩
  | succ n ih =>
    obtain ⟨m, hm, hread⟩ := ih (by omega)
    refine ⟨m.write n (f n), Memory.write_wf hm (by omega), fun x hx => ?_⟩
    rw [Memory.read_write hm]
    split_ifs with hxn
    · rw [hxn]
    · exact hread x (by omega)

/-- The last pair that a canonical memory lists for an address is its only one, so it is what is read there. -/
theorem Memory.lookup_reverse_of_wf {m : Memory} (h : m.wf = true) (x : Nat) :
    (m.reverse.lookup x).getD Memory.unlisted = m.read x := by
  induction m with
  | nil => rfl
  | cons c m ih =>
    obtain ⟨a, b⟩ := c
    obtain ⟨-, -, hall, hm⟩ := Memory.wf_cons.mp h
    rw [List.reverse_cons, List.lookup_append, Memory.read_cons]
    by_cases hx : x = a
    · subst hx
      have hnone : m.reverse.lookup x = none := by
        rw [List.lookup_eq_none_iff]
        intro c hc
        simpa using (hall c (List.mem_reverse.mp hc)).ne
      rw [hnone, Option.none_or, List.lookup_cons_self, Option.getD_some, if_pos rfl]
    · have hnone : List.lookup x [(a, b)] = none := by
        rw [List.lookup_cons, beq_false_of_ne hx]
        rfl
      rw [hnone, Option.or_none, ih hm, if_neg hx]

theorem Memory.ofCells_of_wf {m : Memory} (h : m.wf = true) : Memory.ofCells m = m :=
  Memory.ext_of_wf_inside (Memory.ofCells_wf m) h fun x hx => by
    rw [Memory.ofCells_read m hx, Memory.lookup_reverse_of_wf h]

/-! ## Values of several bytes (R52) -/

theorem wordAt_eq_toNat (m : Memory) (a : Nat) : wordAt m a = (le16 (m.read a) (m.read (a + 1))).toNat :=
  (le16_toNat ..).symm

theorem dwordAt_eq_toNat (m : Memory) (a : Nat) :
    dwordAt m a = (le32 (m.read a) (m.read (a + 1)) (m.read (a + 2)) (m.read (a + 3))).toNat := by
  simp only [le32_toNat, dwordAt, wordAt, Nat.add_assoc, Nat.reduceAdd]
  omega

theorem ofNat_wordAt (m : Memory) (a : Nat) : BitVec.ofNat 16 (wordAt m a) = le16 (m.read a) (m.read (a + 1)) := by
  rw [wordAt_eq_toNat, BitVec.ofNat_toNat, BitVec.setWidth_eq]

theorem ofNat_dwordAt (m : Memory) (a : Nat) :
    BitVec.ofNat 32 (dwordAt m a) = le32 (m.read a) (m.read (a + 1)) (m.read (a + 2)) (m.read (a + 3)) := by
  rw [dwordAt_eq_toNat, BitVec.ofNat_toNat, BitVec.setWidth_eq]

theorem byteOf_fetchWord {k : Nat} (hk : k < 2) : byteOf (fetchWord s).1 k = fetchAt s k :=
  match k, hk with
  | 0, _ => byteOf_le16_0 ..
  | 1, _ => byteOf_le16_1 ..

theorem byteOf_fetchDword {k : Nat} (hk : k < 4) : byteOf (fetchDword s).1 k = fetchAt s k :=
  match k, hk with
  | 0, _ => byteOf_le32_0 ..
  | 1, _ => byteOf_le32_1 ..
  | 2, _ => byteOf_le32_2 ..
  | 3, _ => byteOf_le32_3 ..

/-! ## What a completed write has put in memory, byte by byte (R54) -/

section
variable {t : State} {a : Word32}

theorem writeWordAt_read_byte {v : Word16} (hw : s.mem.wf = true) (h : writeWordAt a v s = .ok t) {j : Nat} (hj : j < 2) :
    t.mem.read (a.toNat + j) = byteOf v j := by
  obtain ⟨h0, h1⟩ := writeWordAt_read hw h
  exact match j, hj with
  | 0, _ => h0
  | 1, _ => h1

theorem writeDwordAt_read_byte {v : Word32} (hw : s.mem.wf = true) (h : writeDwordAt a v s = .ok t) {j : Nat} (hj : j < 4) :
    t.mem.read (a.toNat + j) = byteOf v j := by
  obtain ⟨h0, h1, h2, h3⟩ := writeDwordAt_read hw h
  exact match j, hj with
  | 0, _ => h0
  | 1, _ => h1
  | 2, _ => h2
  | 3, _ => h3

/-- A completed write of the `n` bytes of a value: memory alone has changed, canonical still, and reads as the value's bytes
from the address on and as before elsewhere. -/
theorem Stored.read_eq {n m : Nat} {v : BitVec m} (h : Stored a n s t) (hw : s.mem.wf = true)
    (hv : ∀ {j}, j < n → t.mem.read (a.toNat + j) = byteOf v j) :
    t = { s with mem := t.mem } ∧ t.mem.wf = true ∧
      ∀ x, t.mem.read x = if a.toNat ≤ x ∧ x < a.toNat + n then v.extractLsb' (8 * (x - a.toNat)) 8
        else s.mem.read x := by
  obtain ⟨-, ht, hwf, hother⟩ := h
  refine ⟨ht, hwf hw, fun x => ?_⟩
  split_ifs with hx
  · obtain ⟨j, rfl⟩ := Nat.exists_eq_add_of_le hx.1
    rw [hv (by omega), Nat.add_sub_cancel_left, byteOf]
  · exact hother x (by omega)

end

end

/-! ## The obligations on memory -/

/-- Settles O29: every content is written byte by byte, and a canonical memory is determined by what it reads in the store. -/
theorem canonicalMemoriesAreTheContents : Obligations.CanonicalMemoriesAreTheContents :=
  ⟨fun f => Memory.exists_wf_read f Config.memSize le_rfl, fun _ _ hm hn h => Memory.ext_of_wf_inside hm hn h⟩

/-- Settles O30: each width's read inside and outside the store, and its value as a number. -/
theorem memReadIsLittleEndianAndChecked : Obligations.MemReadIsLittleEndianAndChecked := by
  intro s a
  refine ⟨?byte, ?word, ?dword⟩
  case byte =>
    split_ifs with h
    · exact readByteAt_error h
    · exact readByteAt_ok (Nat.not_lt.mp h)
  case word =>
    split_ifs with h
    · exact readWordAt_error h
    · rw [ofNat_wordAt]
      exact readWordAt_ok (Nat.not_lt.mp h)
  case dword =>
    split_ifs with h
    · exact readDwordAt_error h
    · rw [ofNat_dwordAt]
      exact readDwordAt_ok (Nat.not_lt.mp h)

/-- Settles O31: each width's write outside the store, and the bytes of its value inside. -/
theorem memWriteIsLittleEndianAndChecked : Obligations.MemWriteIsLittleEndianAndChecked := by
  intro s a hw
  refine ⟨fun v => ?byte, fun v => ?word, fun v => ?dword⟩
  case byte =>
    split_ifs with h
    · exact writeByteAt_error h
    · have hok := writeByteAt_ok (v := v) (s := s) (Nat.not_lt.mp h)
      exact ⟨_, hok, rfl, Memory.write_wf hw (by omega), fun x => Memory.read_write hw a.toNat x v⟩
  case word =>
    split_ifs with h
    · exact writeWordAt_error h
    · have hok := writeWordAt_ok (v := v) (s := s) (Nat.not_lt.mp h)
      exact ⟨_, hok, (writeWordAt_stored hok).read_eq hw (writeWordAt_read_byte hw hok)⟩
  case dword =>
    split_ifs with h
    · exact writeDwordAt_error h
    · have hok := writeDwordAt_ok (v := v) (s := s) (Nat.not_lt.mp h)
      exact ⟨_, hok, (writeDwordAt_stored hok).read_eq hw (writeDwordAt_read_byte hw hok)⟩

/-- Settles O33: each width's `Fetch` is one advance, and the value's bytes are those of the fetch path. -/
theorem fetchReadsAdvancesAndTicks : Obligations.FetchReadsAdvancesAndTicks := by
  intro s he
  refine ⟨⟨(advance 1 s).eip, ?byte, advance_eip_toNat 1 s⟩,
    ⟨(advance 2 s).eip, (fetchWord s).1, rfl, advance_eip_toNat 2 s, fun _ hk => byteOf_fetchWord hk⟩,
    ⟨(advance 4 s).eip, (fetchDword s).1, rfl, advance_eip_toNat 4 s, fun _ hk => byteOf_fetchDword hk⟩⟩
  case byte =>
    rw [← fetchAt_zero_of_lt he]
    rfl

/-! ## The obligations on the sampler and the host -/

/-- Settles O21: with the queue empty the worker moves, and halted it answers the same state. -/
theorem haltedWorkerIdles : Obligations.HaltedWorkerIdles :=
  fun _ hhalted hq => (step_nil hq).trans (workerStep_halted hhalted)

/-- Settles O22: before the first `Start` the move has its next state. -/
theorem startBeginsTheRun : Obligations.StartBeginsTheRun := by
  intro s rest hq hs
  obtain ⟨-, hstopped⟩ := runState_eq_stopped_iff.mp hs
  refine ⟨?start, rfl⟩
  case start => rw [step_cons hq, perform, hostStart, if_neg (Bool.eq_false_iff.mp hstopped)]

/-- Settles O23: `Stop` halts, and a halted worker idles. -/
theorem stopSetsHaltedAlone : Obligations.StopSetsHaltedAlone :=
  fun _ _ hq => ⟨step_cons hq, workerStep_halted rfl⟩

/-- Settles O24: each of the sampler's moves publishes one difference of 64-bit counters. -/
theorem samplerPublishesDeltas : Obligations.SamplerPublishesDeltas := by
  intro s rest
  refine ⟨fun hq => ⟨_, step_cons hq, rfl, ?instr⟩, fun hq => ⟨_, step_cons hq, rfl, ?clock⟩⟩
  case instr => exact (BitVec.toNat_sub ..).trans (by rw [Nat.add_comm])
  case clock => exact (BitVec.toNat_sub ..).trans (by rw [Nat.add_comm])

/-- Settles O25: the load before `Start` and inside the store is one write of memory. -/
theorem loaderWritesOneByte : Obligations.LoaderWritesOneByte := by
  intro s a v rest hw hq hstopped ha
  have hload : step s = .next { s with agenda := rest, mem := s.mem.write a v } := by
    rw [step_cons hq, perform, hostLoad, if_neg (Bool.eq_false_iff.mp hstopped), if_pos ha]
  exact ⟨_, hload, rfl, Memory.read_write_same hw, fun x hx => Memory.read_write_other hx⟩

/-- Settles O26: each refusal by the first check that fails. -/
theorem forbiddenHostMovesAreRefused : Obligations.ForbiddenHostMovesAreRefused := by
  intro s rest
  refine ⟨fun hq hstarted => ?start, fun a v hq hstarted => ?loadStarted, fun a v hq hstopped ha => ?loadOutside⟩
  case start => rw [step_cons hq, perform, hostStart, if_pos hstarted]
  case loadStarted => rw [step_cons hq, perform, hostLoad, if_pos hstarted]
  case loadOutside =>
    rw [step_cons hq, perform, hostLoad, if_neg (Bool.eq_false_iff.mp hstopped), if_neg (Nat.not_lt.mpr ha)]

/-- Settles O27: the read of a halted engine and of a running one. -/
theorem hostReadReturnsFinalValues : Obligations.HostReadReturnsFinalValues := by
  intro s rest hq
  rw [step_cons hq, perform, hostRead]
  split_ifs with hhalted
  · exact ⟨_, rfl, rfl, fun _ => rfl⟩
  · exact ⟨_, rfl, rfl, fun h => absurd h hhalted⟩

/-- Settles O28: the fields of a construction, and its memory by the laws of the argument's contents. -/
theorem constructionGivesResetValues : Obligations.ConstructionGivesResetValues := by
  intro s m c rest hq
  refine ⟨_, step_cons hq, fun r => ?regs, rfl, rfl, rfl, rfl, rfl, rfl, rfl, rfl, rfl, rfl, rfl, rfl, rfl,
    Memory.ofCells_wf c, fun x hx => Memory.ofCells_read c hx, Memory.ofCells_of_wf, rfl, rfl, rfl⟩
  case regs => cases r <;> rfl

end Sys2Proof.Machine
end

section
/-!
PROOFS. What an instruction does not look at: the sampler's snapshots (spec/60_exceptions.md R232), and `Lookback` and `Mode`
where the operand width is not used (spec/40_sequencer_and_prefix.md R114). Each instruction is one of the twelve operations of
Ops.lean, so that a claim about all instructions is proved once for each operation.
-/

namespace Sys2Proof.Machine

/-! ## The operation of an instruction -/

/-- The operations of Ops.lean, with their operands. -/
inductive Shape where
  | keep
  | incGpr (r : Gpr)
  | incReg8 (r : Reg8)
  | incMemByte (a : Addr)
  | incMemW (a : Addr)
  | movReg8 (d src : Reg8)
  | loadReg8 (d : Reg8) (a : Addr)
  | loadGpr (d : Gpr) (a : Addr)
  | movImm8 (d : Reg8) (v : Byte)
  | movImm (d : Gpr) (v : Imm)
  | jump (v : Byte)
  | halt

/-- The operation that gives an instruction its meaning. -/
def shapeOf : Instr → Shape
  | .incAx => .incGpr .eax | .incCx => .incGpr .ecx | .incDx => .incGpr .edx | .incBx => .incGpr .ebx
  | .opsize => .keep | .nop => .keep | .jmpRel8 v => .jump v | .hlt => .halt
  | .movAlAl => .movReg8 .al .al | .movAlCl => .movReg8 .al .cl | .movAlDl => .movReg8 .al .dl
  | .movAlBl => .movReg8 .al .bl | .movAlAh => .movReg8 .al .ah | .movAlCh => .movReg8 .al .ch
  | .movAlBh => .movReg8 .al .bh
  | .movClAl => .movReg8 .cl .al | .movClCl => .movReg8 .cl .cl | .movClDl => .movReg8 .cl .dl
  | .movClBl => .movReg8 .cl .bl | .movClAh => .movReg8 .cl .ah | .movClCh => .movReg8 .cl .ch
  | .movClBh => .movReg8 .cl .bh
  | .movDlAl => .movReg8 .dl .al | .movDlCl => .movReg8 .dl .cl | .movDlDl => .movReg8 .dl .dl
  | .movDlBl => .movReg8 .dl .bl | .movDlAh => .movReg8 .dl .ah | .movDlCh => .movReg8 .dl .ch
  | .movDlBh => .movReg8 .dl .bh
  | .movBlAl => .movReg8 .bl .al | .movBlCl => .movReg8 .bl .cl | .movBlDl => .movReg8 .bl .dl
  | .movBlBl => .movReg8 .bl .bl | .movBlAh => .movReg8 .bl .ah | .movBlCh => .movReg8 .bl .ch
  | .movBlBh => .movReg8 .bl .bh
  | .movAhAl => .movReg8 .ah .al | .movAhCl => .movReg8 .ah .cl | .movAhDl => .movReg8 .ah .dl
  | .movAhBl => .movReg8 .ah .bl | .movAhAh => .movReg8 .ah .ah | .movAhCh => .movReg8 .ah .ch
  | .movAhBh => .movReg8 .ah .bh
  | .movChAl => .movReg8 .ch .al | .movChCl => .movReg8 .ch .cl | .movChDl => .movReg8 .ch .dl
  | .movChBl => .movReg8 .ch .bl | .movChAh => .movReg8 .ch .ah | .movChCh => .movReg8 .ch .ch
  | .movChBh => .movReg8 .ch .bh
  | .movBhAl => .movReg8 .bh .al | .movBhCl => .movReg8 .bh .cl | .movBhDl => .movReg8 .bh .dl
  | .movBhBl => .movReg8 .bh .bl | .movBhAh => .movReg8 .bh .ah | .movBhCh => .movReg8 .bh .ch
  | .movBhBh => .movReg8 .bh .bh
  | .movClA16 a => .loadReg8 .cl (.a16 a) | .movClA32 a => .loadReg8 .cl (.a32 a)
  | .movDlA16 a => .loadReg8 .dl (.a16 a) | .movDlA32 a => .loadReg8 .dl (.a32 a)
  | .movBlA16 a => .loadReg8 .bl (.a16 a) | .movBlA32 a => .loadReg8 .bl (.a32 a)
  | .movAhA16 a => .loadReg8 .ah (.a16 a) | .movAhA32 a => .loadReg8 .ah (.a32 a)
  | .movChA16 a => .loadReg8 .ch (.a16 a) | .movChA32 a => .loadReg8 .ch (.a32 a)
  | .movDhA16 a => .loadReg8 .dh (.a16 a) | .movDhA32 a => .loadReg8 .dh (.a32 a)
  | .movBhA16 a => .loadReg8 .bh (.a16 a) | .movBhA32 a => .loadReg8 .bh (.a32 a)
  | .movCxA16 a => .loadGpr .ecx (.a16 a) | .movCxA32 a => .loadGpr .ecx (.a32 a)
  | .movDxA16 a => .loadGpr .edx (.a16 a) | .movDxA32 a => .loadGpr .edx (.a32 a)
  | .movBxA16 a => .loadGpr .ebx (.a16 a) | .movBxA32 a => .loadGpr .ebx (.a32 a)
  | .movAlAddr a => .loadReg8 .al a | .movAxAddr a => .loadGpr .eax a
  | .movAlImm8 v => .movImm8 .al v | .movClImm8 v => .movImm8 .cl v | .movDlImm8 v => .movImm8 .dl v
  | .movBlImm8 v => .movImm8 .bl v | .movAhImm8 v => .movImm8 .ah v | .movChImm8 v => .movImm8 .ch v
  | .movDhImm8 v => .movImm8 .dh v | .movBhImm8 v => .movImm8 .bh v
  | .movAxImm v => .movImm .eax v | .movCxImm v => .movImm .ecx v | .movDxImm v => .movImm .edx v
  | .movBxImm v => .movImm .ebx v
  | .incAl => .incReg8 .al | .incCl => .incReg8 .cl | .incDl => .incReg8 .dl | .incBl => .incReg8 .bl
  | .incAh => .incReg8 .ah | .incCh => .incReg8 .ch | .incDh => .incReg8 .dh | .incBh => .incReg8 .bh
  | .incByteA16 a => .incMemByte (.a16 a) | .incByteA32 a => .incMemByte (.a32 a)
  | .incWordA16 a => .incMemW (.a16 a) | .incWordA32 a => .incMemW (.a32 a)

/-- What an operation does before the end of the dispatch: the state it completes with, or its failure. -/
def Shape.outcome : Shape → State → Except Failure State
  | .keep, s => .ok s
  | .incGpr r, s =>
    match s.width with
    | .w16 => .ok (s.setGpr16 r (inc (s.regs.get16 r)))
    | .w32 => .ok (s.setGpr r (inc (s.regs.get r)))
  | .incReg8 r, s => .ok (s.setReg8 r (inc (s.regs.get8 r)))
  | .incMemByte a, s => readByteAt (effective a) s >>= fun x => writeByteAt (effective a) (inc x) s
  | .incMemW a, s =>
    match s.width with
    | .w16 => readWordAt (effective a) s >>= fun x => writeWordAt (effective a) (inc x) s
    | .w32 => readDwordAt (effective a) s >>= fun x => writeDwordAt (effective a) (inc x) s
  | .movReg8 d src, s => .ok (s.setReg8 d (s.regs.get8 src))
  | .loadReg8 d a, s => readByteAt (effective a) s >>= fun x => .ok (s.setReg8 d x)
  | .loadGpr d a, s =>
    match s.width with
    | .w16 => readWordAt (effective a) s >>= fun x => .ok (s.setGpr16 d x)
    | .w32 => readDwordAt (effective a) s >>= fun x => .ok (s.setGpr d x)
  | .movImm8 d v, s => .ok (s.setReg8 d v)
  | .movImm d v, s =>
    match v with
    | .i16 v => .ok (s.setGpr16 d v)
    | .i32 v => .ok (s.setGpr d v)
  | .jump v, s => .ok { s with eip := jumpTarget s.eip v }
  | .halt, s => .ok { s with halted := true }

/-- Whether an operation looks at W. -/
def Shape.readsWidth : Shape → Bool
  | .incGpr _ | .incMemW _ | .loadGpr _ _ => true
  | _ => false

section
variable {i : Instr} {s t : State}

theorem incGpr_eq_finish (r : Gpr) (s : State) : incGpr r s = finish s (Shape.outcome (.incGpr r) s) := by
  simp only [incGpr, Shape.outcome]
  cases s.width <;> rfl

theorem incMemW_eq_finish (a : Addr) (s : State) : incMemW a s = finish s (Shape.outcome (.incMemW a) s) := by
  simp only [incMemW, Shape.outcome]
  cases s.width <;> rfl

theorem loadGpr_eq_finish (d : Gpr) (a : Addr) (s : State) : loadGpr d a s = finish s (Shape.outcome (.loadGpr d a) s) := by
  simp only [loadGpr, Shape.outcome]
  cases s.width <;> rfl

theorem movImm_eq_finish (d : Gpr) (v : Imm) (s : State) : movImm d v s = finish s (Shape.outcome (.movImm d v) s) := by
  cases v <;> rfl

/-- Every instruction is its operation, brought to an end. -/
theorem exec_eq_finish (i : Instr) (s : State) : exec i s = finish s ((shapeOf i).outcome s) := by
  cases i with
  | incAx | incCx | incDx | incBx => exact incGpr_eq_finish _ s
  | incWordA16 _ | incWordA32 _ => exact incMemW_eq_finish _ s
  | movCxA16 _ | movCxA32 _ | movDxA16 _ | movDxA32 _ | movBxA16 _ | movBxA32 _ | movAxAddr _ => exact loadGpr_eq_finish _ _ s
  | movAxImm _ | movCxImm _ | movDxImm _ | movBxImm _ => exact movImm_eq_finish _ _ s
  | _ => rfl

/-- The instructions whose operation looks at W have an opcode byte that uses W. -/
theorem readsWidth_eq_false_of_opcode (h : usesWidth i.opcode = false) : (shapeOf i).readsWidth = false := by
  cases i with
  | incAx | incCx | incDx | incBx | incWordA16 _ | incWordA32 _ | movCxA16 _ | movCxA32 _ | movDxA16 _ | movDxA32 _
  | movBxA16 _ | movBxA32 _ | movAxAddr _ => cases h
  | _ => rfl

/-! ## Changes of state that an operation does not notice -/

/-- A change of fields that no operation reads, but for the operand width, and that none writes. -/
structure Overlooked (f : State → State) : Prop where
  regs : ∀ s, (f s).regs = s.regs
  eip : ∀ s, (f s).eip = s.eip
  mem : ∀ s, (f s).mem = s.mem
  setRegs : ∀ s g, f { s with regs := g } = { f s with regs := g }
  setEip : ∀ s e, f { s with eip := e } = { f s with eip := e }
  setMem : ∀ s m, f { s with mem := m } = { f s with mem := m }
  setHalted : ∀ s, f { s with halted := true } = { f s with halted := true }
  raise : ∀ s x, f (raise x s) = Sys2Proof.Machine.raise x (f s)

section
variable {f : State → State} (hf : Overlooked f)
include hf

theorem Overlooked.updateRegs (s : State) (k : Regs → Regs) :
    { f s with regs := k (f s).regs } = f { s with regs := k s.regs } := by
  rw [hf.regs s]
  exact (hf.setRegs s _).symm

theorem Overlooked.setReg8 (s : State) (d : Reg8) (v : Byte) : (f s).setReg8 d v = f (s.setReg8 d v) :=
  hf.updateRegs s (·.set8 d v)

theorem Overlooked.setGpr16 (s : State) (r : Gpr) (v : Word16) : (f s).setGpr16 r v = f (s.setGpr16 r v) :=
  hf.updateRegs s (·.set16 r v)

theorem Overlooked.setGpr (s : State) (r : Gpr) (v : Word32) : (f s).setGpr r v = f (s.setGpr r v) :=
  hf.updateRegs s (·.set r v)

theorem Overlooked.readByteAt (s : State) (a : Word32) : readByteAt a (f s) = Machine.readByteAt a s := by
  rw [Machine.readByteAt, hf.mem]
  rfl

theorem Overlooked.readWordAt (s : State) (a : Word32) : readWordAt a (f s) = Machine.readWordAt a s := by
  rw [Machine.readWordAt, hf.mem]
  rfl

theorem Overlooked.readDwordAt (s : State) (a : Word32) : readDwordAt a (f s) = Machine.readDwordAt a s := by
  rw [Machine.readDwordAt, hf.mem]
  rfl

theorem Overlooked.writeByteAt (s : State) (a : Word32) (v : Byte) :
    writeByteAt a v (f s) = (Machine.writeByteAt a v s).map f := by
  unfold Machine.writeByteAt
  split_ifs
  · rw [hf.mem, ← hf.setMem]
    rfl
  · rfl

theorem Overlooked.writeWordAt (s : State) (a : Word32) (v : Word16) :
    writeWordAt a v (f s) = (Machine.writeWordAt a v s).map f := by
  unfold Machine.writeWordAt
  split_ifs
  · rw [hf.mem, ← hf.setMem]
    rfl
  · rfl

theorem Overlooked.writeDwordAt (s : State) (a : Word32) (v : Word32) :
    writeDwordAt a v (f s) = (Machine.writeDwordAt a v s).map f := by
  unfold Machine.writeDwordAt
  split_ifs
  · rw [hf.mem, ← hf.setMem]
    rfl
  · rfl

end

/-- A read followed by a continuation that passes the change on. -/
theorem bind_map_of_forall {α : Type} {f : State → State} (r : Except Failure α) {k k' : α → Except Failure State}
    (h : ∀ x, k' x = (k x).map f) : (r >>= k') = (r >>= k).map f := by
  cases r with
  | ok x => exact h x
  | error _ => rfl

/-- An operation passes an overlooked change on to its outcome. -/
theorem Overlooked.outcome {f : State → State} (hf : Overlooked f) {sh : Shape} (s : State)
    (hw : sh.readsWidth = true → (f s).width = s.width) : sh.outcome (f s) = (sh.outcome s).map f := by
  cases sh with
  | keep => rfl
  | incGpr r =>
    simp only [Shape.outcome, hw rfl, hf.regs, hf.setGpr16, hf.setGpr]
    cases s.width <;> rfl
  | incReg8 r => simp only [Shape.outcome, hf.regs, hf.setReg8, Except.map]
  | incMemByte a =>
    simp only [Shape.outcome, hf.readByteAt]
    exact bind_map_of_forall _ fun x => hf.writeByteAt s _ _
  | incMemW a =>
    simp only [Shape.outcome, hw rfl, hf.readWordAt, hf.readDwordAt]
    cases s.width with
    | w16 => exact bind_map_of_forall _ fun x => hf.writeWordAt s _ _
    | w32 => exact bind_map_of_forall _ fun x => hf.writeDwordAt s _ _
  | movReg8 d src => simp only [Shape.outcome, hf.regs, hf.setReg8, Except.map]
  | loadReg8 d a =>
    simp only [Shape.outcome, hf.readByteAt]
    exact bind_map_of_forall _ fun x => congrArg Except.ok (hf.setReg8 s d x)
  | loadGpr d a =>
    simp only [Shape.outcome, hw rfl, hf.readWordAt, hf.readDwordAt]
    cases s.width with
    | w16 => exact bind_map_of_forall _ fun x => congrArg Except.ok (hf.setGpr16 s d x)
    | w32 => exact bind_map_of_forall _ fun x => congrArg Except.ok (hf.setGpr s d x)
  | movImm8 d v => exact congrArg Except.ok (hf.setReg8 s d v)
  | movImm d v =>
    cases v with
    | i16 v => exact congrArg Except.ok (hf.setGpr16 s d v)
    | i32 v => exact congrArg Except.ok (hf.setGpr s d v)
  | jump v => simp only [Shape.outcome, hf.eip, ← hf.setEip, Except.map]
  | halt => exact congrArg Except.ok (hf.setHalted s).symm

/-- An instruction passes on a change that its operation does not notice and the epilogue keeps. -/
theorem Overlooked.exec {f : State → State} (hf : Overlooked f) (s : State)
    (hw : (shapeOf i).readsWidth = true → (f s).width = s.width) (hepilogue : ∀ u, epilogue (f u) = f (epilogue u)) :
    exec i (f s) = onNext f (Machine.exec i s) := by
  rw [exec_eq_finish, exec_eq_finish, hf.outcome s hw]
  cases (shapeOf i).outcome s with
  | ok u => exact congrArg Host.Outcome.next (hepilogue u)
  | error x => exact congrArg Host.Outcome.next (hf.raise s x).symm

theorem overlooked_snapshots (io d co e : Counter) : Overlooked (State.withSnapshots io d co e) :=
  ⟨fun _ => rfl, fun _ => rfl, fun _ => rfl, fun _ _ => rfl, fun _ _ => rfl, fun _ _ => rfl, fun _ => rfl, fun _ _ => rfl⟩

theorem overlooked_mode (m : Mode) : Overlooked fun s => { s with mode := m } :=
  ⟨fun _ => rfl, fun _ => rfl, fun _ => rfl, fun _ _ => rfl, fun _ _ => rfl, fun _ _ => rfl, fun _ => rfl, fun _ _ => rfl⟩

theorem overlooked_lookback (x : Byte) : Overlooked fun s => { s with lookback := x } :=
  ⟨fun _ => rfl, fun _ => rfl, fun _ => rfl, fun _ _ => rfl, fun _ _ => rfl, fun _ _ => rfl, fun _ => rfl, fun _ _ => rfl⟩

theorem overlooked_instr (n : Counter) : Overlooked fun s => { s with instr := n } :=
  ⟨fun _ => rfl, fun _ => rfl, fun _ => rfl, fun _ _ => rfl, fun _ _ => rfl, fun _ _ => rfl, fun _ => rfl, fun _ _ => rfl⟩

/-- An operation leaves `Instr` to the epilogue: it passes on the writing of the value that is there. -/
theorem instr_of_outcome {sh : Shape} {u : State} (h : sh.outcome s = .ok u) : u.instr = s.instr := by
  have hpass : sh.outcome s = (sh.outcome s).map fun u => { u with instr := s.instr } :=
    (overlooked_instr s.instr).outcome s fun _ => rfl
  rw [h] at hpass
  have hu : u = { u with instr := s.instr } := Except.ok.inj hpass
  rw [hu]

/-- An instruction that does not look at W leaves `Lookback` to the epilogue, and keeps it when none runs. -/
theorem exec_lookback (hw : usesWidth i.opcode = false) (x : Byte) :
    exec i { s with lookback := x } =
      onNext (fun t => if t.instr = s.instr + 1 then t else { t with lookback := x }) (exec i s) := by
  have hout := (overlooked_lookback x).outcome (sh := shapeOf i) s
    fun h => absurd ((readsWidth_eq_false_of_opcode hw).symm.trans h) nofun
  rw [exec_eq_finish, exec_eq_finish, hout]
  cases hu : (shapeOf i).outcome s with
  | ok u =>
    have hn : (epilogue u).instr = s.instr + 1 := by rw [epilogue_instr, instr_of_outcome hu]
    exact congrArg Host.Outcome.next (if_pos hn).symm
  | error e => exact congrArg Host.Outcome.next (if_neg (counter_ne_succ s.instr)).symm

/-! ## Decoding without W, and without `Mode` (R114, R181) -/

section
variable {m m' : Mode} {w w' : Width} {op : Byte}

theorem opcodeEntry_width_irrelevant (h : usesWidth op = false) : opcodeEntry m w op = opcodeEntry m w' op := by
  have hne : ∀ x, usesWidth x = true → (op == x) = false := by
    intro x hx
    refine beq_false_of_ne fun hop => ?_
    rw [hop, hx] at h
    cases h
  simp only [opcodeEntry, opcodeRows, a0AddrRule, AddrRule.width, List.cons_append, List.nil_append, List.lookup_cons,
    hne 0xA1 rfl, hne 0xB8 rfl, hne 0xB9 rfl, hne 0xBA rfl, hne 0xBB rfl]

theorem opcodeEntry_mode_irrelevant (h : op ≠ 0xA0#8) : opcodeEntry m w op = opcodeEntry m' w op := by
  have hA0 : (op == 0xA0) = false := beq_false_of_ne h
  simp only [opcodeEntry, opcodeRows, a1AddrRule, AddrRule.width, List.cons_append, List.nil_append, List.lookup_cons, hA0]

theorem decode_congr {b : Window} (h : opcodeEntry m w b.b0 = opcodeEntry m' w' b.b0) : decode m w b = decode m' w' b := by
  rw [decode, decode, h]

end

theorem workerStep_snapshots (s : State) (io d co e : Counter) :
    workerStep (s.withSnapshots io d co e) = onNext (State.withSnapshots io d co e) (workerStep s) := by
  cases hrun : s.halted with
  | true =>
    rw [workerStep_halted (s := s.withSnapshots io d co e) hrun, workerStep_halted hrun]
    rfl
  | false =>
    have hd : decode (s.withSnapshots io d co e).mode (s.withSnapshots io d co e).width (s.withSnapshots io d co e).window =
      decode s.mode s.width s.window := rfl
    rw [workerStep_eq_runDecoded (s := s.withSnapshots io d co e) hrun, workerStep_eq_runDecoded hrun, hd]
    cases decode s.mode s.width s.window with
    | instr i =>
      exact (overlooked_snapshots io d co e).exec (i := i) (s.afterFetch i.opcode i.length i.fetches) (fun _ => rfl)
        fun _ => rfl
    | invalidOpcode b => rfl
    | unsupportedSecondByte op sb => rfl

end

/-! ## The obligations -/

/-- Settles O17: the window does not depend on the snapshots, and no instruction notices them. -/
theorem samplerDoesNotDisturbTheWorker : Obligations.SamplerDoesNotDisturbTheWorker := workerStep_snapshots

/-- Settles O36: the truth table of W; then the decoder and the operations where W is not used. -/
theorem operandWidthByModeAndOverride : Obligations.OperandWidthByModeAndOverride := by
  refine ⟨fun s => ⟨?plain16, ?prefix16, ?plain32, ?prefix32⟩,
    fun m w w' b h => decode_congr (opcodeEntry_width_irrelevant h),
    fun m m' w b h => decode_congr (opcodeEntry_mode_irrelevant h),
    fun i s x hw => exec_lookback hw x, fun i s m hw => ?mode⟩
  case plain16 => intro hm hl; rw [State.width, hm, operandWidth_of_ne_prefix _ hl]; rfl
  case prefix16 => intro hm hl; rw [State.width, hm, hl]; rfl
  case plain32 => intro hm hl; rw [State.width, hm, operandWidth_of_ne_prefix _ hl]; rfl
  case prefix32 => intro hm hl; rw [State.width, hm, hl]; rfl
  case mode =>
    exact (overlooked_mode m).exec s (fun h => absurd ((readsWidth_eq_false_of_opcode hw).symm.trans h) nofun) fun _ => rfl

end Sys2Proof.Machine
end

section
/-!
PROOFS. The instructions one by one (spec/41_inc.md, spec/42_mov.md, spec/43_control.md): what each operation does to registers
and memory, inside the store and outside it; then the rows of the opcode table, each an operation and an encoding.
-/

namespace Sys2Proof.Machine

section
variable {s t : State} {a : Addr}

/-! ## Registers -/

theorem incGpr_retires (r : Gpr) (s : State) : ∃ t, incGpr r s = .next t ∧ RetiresRegs s t ∧
    (s.width = .w16 → WritesWord r (BitVec.ofNat 16 (((s.regs.get r).extractLsb' 0 16).toNat + 1)) s t) ∧
    (s.width = .w32 → WritesDword r (BitVec.ofNat 32 ((s.regs.get r).toNat + 1)) s t) := by
  obtain ⟨t, ht⟩ := incGpr_answers r s
  refine ⟨t, ht, ?_⟩
  rcases incGpr_next ht with ⟨hw, rfl⟩ | ⟨hw, rfl⟩
  · exact ⟨retiresRegs_epilogue s _, fun _ => writesWord_of_regs rfl, fun h => absurd (hw.symm.trans h) nofun⟩
  · exact ⟨retiresRegs_epilogue s _, fun h => absurd (hw.symm.trans h) nofun, fun _ => writesDword_of_regs rfl⟩

/-! ## Loads -/

theorem readWordAt_eq_wordAt {b : Word32} (h : b.toNat + 2 ≤ Config.memSize) :
    readWordAt b s = .ok (BitVec.ofNat 16 (wordAt s.mem b.toNat)) := by
  rw [ofNat_wordAt]
  exact readWordAt_ok h

theorem readDwordAt_eq_dwordAt {b : Word32} (h : b.toNat + 4 ≤ Config.memSize) :
    readDwordAt b s = .ok (BitVec.ofNat 32 (dwordAt s.mem b.toNat)) := by
  rw [ofNat_dwordAt]
  exact readDwordAt_ok h

theorem loadReg8_inside (d : Reg8) (h : (effective a).toNat + 1 ≤ Config.memSize) :
    ∃ t, loadReg8 d a s = .next t ∧ RetiresRegs s t ∧ OnlyReg8 d s t ∧
      t.regs.get8 d = s.mem.read (effective a).toNat := by
  obtain ⟨t, ht⟩ := loadReg8_answers d a s
  rcases loadReg8_next ht with ⟨-, rfl⟩ | ⟨hout, -⟩
  · exact ⟨_, ht, epilogue_setReg8_writes s d _⟩
  · omega

theorem loadReg8_outside (d : Reg8) (h : Config.memSize < (effective a).toNat + 1) :
    ∃ t, loadReg8 d a s = .next t ∧ Faults (effective a) s t := by
  obtain ⟨t, ht⟩ := loadReg8_answers d a s
  rcases loadReg8_next ht with ⟨hin, -⟩ | ⟨-, rfl⟩
  · omega
  · exact ⟨_, ht, rfl⟩

theorem loadGpr_inside_w16 (d : Gpr) (hw : s.width = .w16) (h : (effective a).toNat + 2 ≤ Config.memSize) :
    ∃ t, loadGpr d a s = .next t ∧ RetiresRegs s t ∧
      WritesWord d (BitVec.ofNat 16 (wordAt s.mem (effective a).toNat)) s t := by
  refine ⟨epilogue (s.setGpr16 d (BitVec.ofNat 16 (wordAt s.mem (effective a).toNat))), ?run, retiresRegs_epilogue s _,
    writesWord_of_regs rfl⟩
  case run => simp only [loadGpr, hw, readWordAt_eq_wordAt h, bind, Except.bind, finish]

theorem loadGpr_inside_w32 (d : Gpr) (hw : s.width = .w32) (h : (effective a).toNat + 4 ≤ Config.memSize) :
    ∃ t, loadGpr d a s = .next t ∧ RetiresRegs s t ∧
      WritesDword d (BitVec.ofNat 32 (dwordAt s.mem (effective a).toNat)) s t := by
  refine ⟨epilogue (s.setGpr d (BitVec.ofNat 32 (dwordAt s.mem (effective a).toNat))), ?run, retiresRegs_epilogue s _,
    writesDword_of_regs rfl⟩
  case run => simp only [loadGpr, hw, readDwordAt_eq_dwordAt h, bind, Except.bind, finish]

theorem loadGpr_outside_w16 (d : Gpr) (hw : s.width = .w16) (h : Config.memSize < (effective a).toNat + 2) :
    ∃ t, loadGpr d a s = .next t ∧ Faults (effective a) s t := by
  refine ⟨raise (.memoryFault (effective a)) s, ?run, rfl⟩
  case run => simp only [loadGpr, hw, readWordAt_error h, bind, Except.bind, finish]

theorem loadGpr_outside_w32 (d : Gpr) (hw : s.width = .w32) (h : Config.memSize < (effective a).toNat + 4) :
    ∃ t, loadGpr d a s = .next t ∧ Faults (effective a) s t := by
  refine ⟨raise (.memoryFault (effective a)) s, ?run, rfl⟩
  case run => simp only [loadGpr, hw, readDwordAt_error h, bind, Except.bind, finish]

/-! ## Increments of memory -/

theorem Stored.retires {b : Word32} {n : Nat} {u : State} (h : Stored b n s u) : RetiresStore b n s (epilogue u) := by
  obtain ⟨-, hu, -, hother⟩ := h
  refine ⟨?state, hother⟩
  case state => rw [hu]; rfl

/-- An increment of a byte inside the store: the state that stores the old byte plus 1, then the epilogue. -/
theorem incMemByte_inside (h : (effective a).toNat + 1 ≤ Config.memSize) :
    ∃ u, writeByteAt (effective a) (inc (s.mem.read (effective a).toNat)) s = .ok u ∧
      incMemByte a s = .next (epilogue u) := by
  obtain ⟨t, ht⟩ := incMemByte_answers a s
  rcases incMemByte_next ht with ⟨u, hu, rfl⟩ | ⟨hout, -⟩
  · exact ⟨u, hu, ht⟩
  · omega

theorem incMemByte_outside (h : Config.memSize < (effective a).toNat + 1) :
    ∃ t, incMemByte a s = .next t ∧ Faults (effective a) s t := by
  obtain ⟨t, ht⟩ := incMemByte_answers a s
  rcases incMemByte_next ht with ⟨u, hu, -⟩ | ⟨-, rfl⟩
  · have := (writeByteAt_stored hu).inside
    omega
  · exact ⟨_, ht, rfl⟩

theorem inc_le16 (m : Memory) (x : Nat) : inc (le16 (m.read x) (m.read (x + 1))) = BitVec.ofNat 16 (wordAt m x + 1) := by
  rw [wordAt_eq_toNat, inc]

theorem inc_le32 (m : Memory) (x : Nat) :
    inc (le32 (m.read x) (m.read (x + 1)) (m.read (x + 2)) (m.read (x + 3))) = BitVec.ofNat 32 (dwordAt m x + 1) := by
  rw [dwordAt_eq_toNat, inc]

/-- With W = 16, an increment inside the store: the state that stores the old word plus 1, then the epilogue. -/
theorem incMemW_inside_w16 (hw : s.width = .w16) (h : (effective a).toNat + 2 ≤ Config.memSize) :
    ∃ u, writeWordAt (effective a) (BitVec.ofNat 16 (wordAt s.mem (effective a).toNat + 1)) s = .ok u ∧
      incMemW a s = .next (epilogue u) := by
  refine ⟨_, writeWordAt_ok h, ?run⟩
  case run => simp only [incMemW, hw, readWordAt_ok h, inc_le16, writeWordAt_ok h, bind, Except.bind, finish]

/-- With W = 32, an increment inside the store: the state that stores the old dword plus 1, then the epilogue. -/
theorem incMemW_inside_w32 (hw : s.width = .w32) (h : (effective a).toNat + 4 ≤ Config.memSize) :
    ∃ u, writeDwordAt (effective a) (BitVec.ofNat 32 (dwordAt s.mem (effective a).toNat + 1)) s = .ok u ∧
      incMemW a s = .next (epilogue u) := by
  refine ⟨_, writeDwordAt_ok h, ?run⟩
  case run => simp only [incMemW, hw, readDwordAt_ok h, inc_le32, writeDwordAt_ok h, bind, Except.bind, finish]

theorem incMemW_outside_w16 (hw : s.width = .w16) (h : Config.memSize < (effective a).toNat + 2) :
    ∃ t, incMemW a s = .next t ∧ Faults (effective a) s t := by
  refine ⟨raise (.memoryFault (effective a)) s, ?run, rfl⟩
  case run => simp only [incMemW, hw, readWordAt_error h, bind, Except.bind, finish]

theorem incMemW_outside_w32 (hw : s.width = .w32) (h : Config.memSize < (effective a).toNat + 4) :
    ∃ t, incMemW a s = .next t ∧ Faults (effective a) s t := by
  refine ⟨raise (.memoryFault (effective a)) s, ?run, rfl⟩
  case run => simp only [incMemW, hw, readDwordAt_error h, bind, Except.bind, finish]

theorem wordAt_of_writeWordAt {b : Word32} {v : Word16} (hw : s.mem.wf = true) (h : writeWordAt b v s = .ok t) :
    wordAt t.mem b.toNat = v.toNat := by
  obtain ⟨h0, h1⟩ := writeWordAt_read hw h
  rw [wordAt_eq_toNat, h0, h1, le16_byteOf]

theorem dwordAt_of_writeDwordAt {b : Word32} {v : Word32} (hw : s.mem.wf = true) (h : writeDwordAt b v s = .ok t) :
    dwordAt t.mem b.toNat = v.toNat := by
  obtain ⟨h0, h1, h2, h3⟩ := writeDwordAt_read hw h
  rw [dwordAt_eq_toNat, h0, h1, h2, h3, le32_byteOf]

theorem incMemByte_retires (hwf : s.mem.wf = true) (h : (effective a).toNat + 1 ≤ Config.memSize) :
    ∃ t, incMemByte a s = .next t ∧ RetiresStore (effective a) 1 s t ∧
      t.mem.read (effective a).toNat = BitVec.ofNat 8 ((s.mem.read (effective a).toNat).toNat + 1) := by
  obtain ⟨u, hu, hrun⟩ := incMemByte_inside h
  exact ⟨_, hrun, (writeByteAt_stored hu).retires, writeByteAt_read (t := u) hwf hu⟩

theorem incMemW_retires_w16 (hwf : s.mem.wf = true) (hw : s.width = .w16) (h : (effective a).toNat + 2 ≤ Config.memSize) :
    ∃ t, incMemW a s = .next t ∧ RetiresStore (effective a) 2 s t ∧
      wordAt t.mem (effective a).toNat = (wordAt s.mem (effective a).toNat + 1) % 2 ^ 16 := by
  obtain ⟨u, hu, hrun⟩ := incMemW_inside_w16 hw h
  exact ⟨_, hrun, (writeWordAt_stored hu).retires, (wordAt_of_writeWordAt hwf hu).trans (BitVec.toNat_ofNat ..)⟩

theorem incMemW_retires_w32 (hwf : s.mem.wf = true) (hw : s.width = .w32) (h : (effective a).toNat + 4 ≤ Config.memSize) :
    ∃ t, incMemW a s = .next t ∧ RetiresStore (effective a) 4 s t ∧
      dwordAt t.mem (effective a).toNat = (dwordAt s.mem (effective a).toNat + 1) % 2 ^ 32 := by
  obtain ⟨u, hu, hrun⟩ := incMemW_inside_w32 hw h
  exact ⟨_, hrun, (writeDwordAt_stored hu).retires, (dwordAt_of_writeDwordAt hwf hu).trans (BitVec.toNat_ofNat ..)⟩

/-! ## A stored byte on the fetch path (R71) -/

/-- A byte of a value modulo 2^n, within its `n` bits. -/
theorem byteOf_ofNat {n j : Nat} (x : Nat) (h : 8 * j + 8 ≤ n) :
    byteOf (BitVec.ofNat n x) j = BitVec.ofNat 8 (x / 256 ^ j) := by
  apply BitVec.eq_of_getLsbD_eq
  intro i hi
  have hpow : 256 ^ j = 2 ^ (8 * j) := by rw [Nat.pow_mul]
  rw [byteOf, BitVec.getLsbD_extractLsb', BitVec.getLsbD_ofNat, BitVec.getLsbD_ofNat, hpow, Nat.testBit_div_two_pow]
  have hlt : i + 8 * j < n := by omega
  simp [hi, hlt, Nat.add_comm]

/-- After a completed store the fetch path reads memory as the store has left it, at the same places. -/
theorem fetchAt_of_stored {b : Word32} {n k x : Nat} {u : State} (h : Stored b n s u)
    (hk : (s.eip.toNat + k) % Config.memSize = x) : fetchAt (epilogue u) k = u.mem.read x := by
  obtain ⟨m, rfl, -⟩ := h.exists_mem
  exact congrArg m.read hk

end

/-! ## The rows of the opcode table -/

/-- What a row says of its instruction: its bytes, the `Fetch` calls over them, and its operation. -/
structure IsRow (i : Instr) (bytes : List Byte) (f : Nat) (run : State → Result) : Prop where
  encode : i.encode = bytes
  fetches : i.fetches = f
  wf : ∀ m w, i.wf m w = true
  exec : ∀ s, exec i s = run s

theorem IsRow.dispatches {i : Instr} {op : Byte} {rest : List Byte} {f : Nat} {run : State → Result}
    (h : IsRow i (op :: rest) f run) : Dispatches anyState op rest f i :=
  dispatches_of_encode h.encode h.fetches fun s _ => h.wf s.mode s.width

theorem isRow_of_mem_incRows {op : Byte} {i : Instr} {r : Gpr} (h : (op, i, r) ∈ incRows) : IsRow i [op] 1 (incGpr r) := by
  simp only [incRows, List.mem_cons, Prod.mk.injEq, List.not_mem_nil, or_false] at h
  rcases h with ⟨rfl, rfl, rfl⟩ | ⟨rfl, rfl, rfl⟩ | ⟨rfl, rfl, rfl⟩ | ⟨rfl, rfl, rfl⟩ <;>
    exact ⟨rfl, rfl, fun _ _ => rfl, fun _ => rfl⟩

theorem isRow_of_mem_movReg8Rows {sb : Byte} {i : Instr} {d src : Reg8} (h : (sb, i, d, src) ∈ movReg8Rows) :
    IsRow i [0x88, sb] 2 (movReg8 d src) := by
  suffices hall : ∀ p ∈ movReg8Rows, IsRow p.2.1 [0x88, p.1] 2 (movReg8 p.2.2.1 p.2.2.2) from hall _ h
  intro p hp
  fin_cases hp <;> exact ⟨rfl, rfl, fun _ _ => rfl, fun _ => rfl⟩

theorem isRow_of_mem_incReg8Rows {sb : Byte} {i : Instr} {r : Reg8} (h : (sb, i, r) ∈ incReg8Rows) :
    IsRow i [0xFE, sb] 2 (incReg8 r) := by
  suffices hall : ∀ p ∈ incReg8Rows, IsRow p.2.1 [0xFE, p.1] 2 (incReg8 p.2.2) from hall _ h
  intro p hp
  fin_cases hp <;> exact ⟨rfl, rfl, fun _ _ => rfl, fun _ => rfl⟩

theorem isRow_of_mem_loadReg8Rows {sb16 sb32 : Byte} {i16 : Word16 → Instr} {i32 : Word32 → Instr} {d : Reg8}
    (h : (sb16, sb32, i16, i32, d) ∈ loadReg8Rows) :
    (∀ a, IsRow (i16 a) [0x8A, sb16, byteOf a 0, byteOf a 1] 3 (loadReg8 d (.a16 a))) ∧
    ∀ a, IsRow (i32 a) [0x8A, sb32, byteOf a 0, byteOf a 1, byteOf a 2, byteOf a 3] 3 (loadReg8 d (.a32 a)) := by
  simp only [loadReg8Rows, List.mem_cons, Prod.mk.injEq, List.not_mem_nil, or_false] at h
  rcases h with ⟨rfl, rfl, rfl, rfl, rfl⟩ | ⟨rfl, rfl, rfl, rfl, rfl⟩ | ⟨rfl, rfl, rfl, rfl, rfl⟩ |
    ⟨rfl, rfl, rfl, rfl, rfl⟩ | ⟨rfl, rfl, rfl, rfl, rfl⟩ | ⟨rfl, rfl, rfl, rfl, rfl⟩ | ⟨rfl, rfl, rfl, rfl, rfl⟩ <;>
    exact ⟨fun _ => ⟨rfl, rfl, fun _ _ => rfl, fun _ => rfl⟩, fun _ => ⟨rfl, rfl, fun _ _ => rfl, fun _ => rfl⟩⟩

theorem isRow_of_mem_loadGprRows {sb16 sb32 : Byte} {i16 : Word16 → Instr} {i32 : Word32 → Instr} {r : Gpr}
    (h : (sb16, sb32, i16, i32, r) ∈ loadGprRows) :
    (∀ a, IsRow (i16 a) [0x8B, sb16, byteOf a 0, byteOf a 1] 3 (loadGpr r (.a16 a))) ∧
    ∀ a, IsRow (i32 a) [0x8B, sb32, byteOf a 0, byteOf a 1, byteOf a 2, byteOf a 3] 3 (loadGpr r (.a32 a)) := by
  simp only [loadGprRows, List.mem_cons, Prod.mk.injEq, List.not_mem_nil, or_false] at h
  rcases h with ⟨rfl, rfl, rfl, rfl, rfl⟩ | ⟨rfl, rfl, rfl, rfl, rfl⟩ | ⟨rfl, rfl, rfl, rfl, rfl⟩ <;>
    exact ⟨fun _ => ⟨rfl, rfl, fun _ _ => rfl, fun _ => rfl⟩, fun _ => ⟨rfl, rfl, fun _ _ => rfl, fun _ => rfl⟩⟩

theorem isRow_incByteA16 (a : Word16) :
    IsRow (.incByteA16 a) [0xFE, 0x06, byteOf a 0, byteOf a 1] 3 (incMemByte (.a16 a)) :=
  ⟨rfl, rfl, fun _ _ => rfl, fun _ => rfl⟩

theorem isRow_incByteA32 (a : Word32) :
    IsRow (.incByteA32 a) [0xFE, 0x05, byteOf a 0, byteOf a 1, byteOf a 2, byteOf a 3] 3 (incMemByte (.a32 a)) :=
  ⟨rfl, rfl, fun _ _ => rfl, fun _ => rfl⟩

theorem isRow_incWordA16 (a : Word16) :
    IsRow (.incWordA16 a) [0xFF, 0x06, byteOf a 0, byteOf a 1] 3 (incMemW (.a16 a)) :=
  ⟨rfl, rfl, fun _ _ => rfl, fun _ => rfl⟩

theorem isRow_incWordA32 (a : Word32) :
    IsRow (.incWordA32 a) [0xFF, 0x05, byteOf a 0, byteOf a 1, byteOf a 2, byteOf a 3] 3 (incMemW (.a32 a)) :=
  ⟨rfl, rfl, fun _ _ => rfl, fun _ => rfl⟩

/-- The rows 0xB8 to 0xBB take an immediate of the operand width: the bytes, the `Fetch` calls, and well-formedness at that
width. -/
theorem movImm_of_mem_movImmRows {op : Byte} {c : Imm → Instr} {r : Gpr} (h : (op, c, r) ∈ movImmRows) (v : Imm) :
    (c v).encode = op :: v.bytes ∧ (c v).fetches = 2 ∧ (∀ m, (c v).wf m v.width = true) ∧
      ∀ s, exec (c v) s = movImm r v s := by
  simp only [movImmRows, List.mem_cons, Prod.mk.injEq, List.not_mem_nil, or_false] at h
  rcases h with ⟨rfl, rfl, rfl⟩ | ⟨rfl, rfl, rfl⟩ | ⟨rfl, rfl, rfl⟩ | ⟨rfl, rfl, rfl⟩ <;>
    exact ⟨rfl, rfl, fun _ => beq_self_eq_true _, fun _ => rfl⟩

/-! ## The obligations: increments -/

/-- Settles O37: each row is the increment of its register by W. -/
theorem incRegisterByWidth : Obligations.IncRegisterByWidth := by
  intro op i r h
  have hrow := isRow_of_mem_incRows h
  refine ⟨hrow.dispatches, fun s => ?_⟩
  rw [hrow.exec]
  exact incGpr_retires r s

/-- Settles O38: each row is one completed write of its view. -/
theorem incByteRegister : Obligations.IncByteRegister := by
  intro sb i r h
  have hrow := isRow_of_mem_incReg8Rows h
  exact ⟨hrow.dispatches, fun s => ⟨_, hrow.exec s, epilogue_setReg8_writes s r _⟩⟩

/-- Settles O39: a zero-extended address lies in the store. -/
theorem incByteAtAddr16 : Obligations.IncByteAtAddr16 := by
  intro a
  have hrow := isRow_incByteA16 a
  have hin := effective_a16_inStore a
  refine ⟨hrow.dispatches, effective_a16_toNat a, fun s hwf => ?_⟩
  rw [hrow.exec, ← effective_a16_toNat]
  exact incMemByte_retires hwf (by omega)

/-- Settles O40: the increment inside the store, and the failure outside it. -/
theorem incByteAtAddr32 : Obligations.IncByteAtAddr32 := by
  intro a
  have hrow := isRow_incByteA32 a
  refine ⟨hrow.dispatches, rfl, fun hin s hwf => ?inside, fun hout s => ?outside⟩
  case inside =>
    rw [hrow.exec]
    exact incMemByte_retires (a := .a32 a) hwf hin
  case outside =>
    rw [hrow.exec]
    exact incMemByte_outside (a := .a32 a) (Nat.lt_succ_of_le hout)

/-- Settles O41: a zero-extended address and four bytes from it lie in the store; a case for each W. -/
theorem incWordAtAddr16 : Obligations.IncWordAtAddr16 := by
  intro a
  have hrow := isRow_incWordA16 a
  have hin := effective_a16_inStore a
  refine ⟨hrow.dispatches, effective_a16_toNat a, fun s hwf => ?_⟩
  rw [hrow.exec, ← effective_a16_toNat]
  cases hw : s.width with
  | w16 =>
    obtain ⟨t, ht, hstore⟩ := incMemW_retires_w16 (a := .a16 a) hwf hw (by omega)
    exact ⟨t, ht, fun _ => hstore, nofun⟩
  | w32 =>
    obtain ⟨t, ht, hstore⟩ := incMemW_retires_w32 (a := .a16 a) hwf hw hin
    exact ⟨t, ht, nofun, fun _ => hstore⟩

/-- Settles O42: for each W the increment inside the store, and the failure outside it. -/
theorem incWordAtAddr32 : Obligations.IncWordAtAddr32 := by
  intro a
  have hrow := isRow_incWordA32 a
  refine ⟨hrow.dispatches, rfl, fun s hw hin hwf => ?in16, fun s hw hin hwf => ?in32, fun s hw hout => ?out16,
    fun s hw hout => ?out32⟩ <;> rw [hrow.exec]
  case in16 => exact incMemW_retires_w16 (a := .a32 a) hwf hw hin
  case in32 => exact incMemW_retires_w32 (a := .a32 a) hwf hw hin
  case out16 => exact incMemW_outside_w16 (a := .a32 a) hw hout
  case out32 => exact incMemW_outside_w32 (a := .a32 a) hw hout

theorem exec_incByteAt (a : Addr) (s : State) : exec (incByteAt a) s = incMemByte a s := by
  cases a <;> rfl

theorem exec_incWordAt (a : Addr) (s : State) : exec (incWordAt a) s = incMemW a s := by
  cases a <;> rfl

/-- Settles O18: the fetch path reads the memory that the store has left, where each byte of the new value stands. -/
theorem storedByteIsFetched : Obligations.StoredByteIsFetched := by
  intro s a hwf
  refine ⟨fun k hk => ?byte, fun k j hw hin hj hk => ?word, fun k j hw hin hj hk => ?dword⟩
  case byte =>
    have hlt : (effective a).toNat < Config.memSize := hk ▸ Nat.mod_lt _ (by decide)
    obtain ⟨u, hu, hrun⟩ := incMemByte_inside hlt
    refine ⟨_, (exec_incByteAt a s).trans hrun, ?_⟩
    rw [fetchAt_of_stored (writeByteAt_stored hu) hk, writeByteAt_read hwf hu, fetchAt, hk, inc]
  case word =>
    obtain ⟨u, hu, hrun⟩ := incMemW_inside_w16 hw hin
    refine ⟨_, (exec_incWordAt a s).trans hrun, ?_⟩
    rw [fetchAt_of_stored (writeWordAt_stored hu) hk, writeWordAt_read_byte hwf hu hj, byteOf_ofNat _ (by omega)]
  case dword =>
    obtain ⟨u, hu, hrun⟩ := incMemW_inside_w32 hw hin
    refine ⟨_, (exec_incWordAt a s).trans hrun, ?_⟩
    rw [fetchAt_of_stored (writeDwordAt_stored hu) hk, writeDwordAt_read_byte hwf hu hj, byteOf_ofNat _ (by omega)]

/-! ## The obligations: moves -/

/-- Settles O43: each row is one completed write of its destination with the source as it was. -/
theorem moveByteRegister : Obligations.MoveByteRegister := by
  intro sb i d src h
  have hrow := isRow_of_mem_movReg8Rows h
  exact ⟨hrow.dispatches, fun s => ⟨_, hrow.exec s, epilogue_setReg8_writes s d _⟩⟩

/-- Settles O44: the load of a byte inside the store, where a zero-extended address always lies, and outside it. -/
theorem loadByteRegister : Obligations.LoadByteRegister := by
  intro sb16 sb32 i16 i32 d h
  obtain ⟨hrow16, hrow32⟩ := isRow_of_mem_loadReg8Rows h
  refine ⟨fun a => ⟨(hrow16 a).dispatches, fun s => ?a16⟩,
    fun a => ⟨(hrow32 a).dispatches, fun hin s => ?inside, fun hout s => ?outside⟩⟩
  case a16 =>
    have hin := effective_a16_inStore a
    rw [(hrow16 a).exec, ← effective_a16_toNat]
    exact loadReg8_inside d (by omega)
  case inside =>
    rw [(hrow32 a).exec]
    exact loadReg8_inside (a := .a32 a) d hin
  case outside =>
    rw [(hrow32 a).exec]
    exact loadReg8_outside (a := .a32 a) d (Nat.lt_succ_of_le hout)

/-- Settles O45: the load by W inside the store, where a zero-extended address always lies, and outside it. -/
theorem loadRegisterByWidth : Obligations.LoadRegisterByWidth := by
  intro sb16 sb32 i16 i32 r h
  obtain ⟨hrow16, hrow32⟩ := isRow_of_mem_loadGprRows h
  refine ⟨fun a => ⟨(hrow16 a).dispatches, fun s => ?a16⟩, fun a => ⟨(hrow32 a).dispatches, ?a32⟩⟩
  case a16 =>
    have hin := effective_a16_inStore a
    rw [(hrow16 a).exec, ← effective_a16_toNat]
    cases hw : s.width with
    | w16 =>
      obtain ⟨t, ht, hregs, hload⟩ := loadGpr_inside_w16 (a := .a16 a) r hw (by omega)
      exact ⟨t, ht, hregs, fun _ => hload, nofun⟩
    | w32 =>
      obtain ⟨t, ht, hregs, hload⟩ := loadGpr_inside_w32 (a := .a16 a) r hw hin
      exact ⟨t, ht, hregs, nofun, fun _ => hload⟩
  case a32 =>
    refine ⟨fun s hw hin => ?in16, fun s hw hin => ?in32, fun s hw hout => ?out16, fun s hw hout => ?out32⟩ <;>
      rw [(hrow32 a).exec]
    case in16 => exact loadGpr_inside_w16 (a := .a32 a) r hw hin
    case in32 => exact loadGpr_inside_w32 (a := .a32 a) r hw hin
    case out16 => exact loadGpr_outside_w16 (a := .a32 a) r hw hout
    case out32 => exact loadGpr_outside_w32 (a := .a32 a) r hw hout

/-- An address operand of 0xA0 is well-formed in the mode that has its width. -/
theorem wf_movAlAddr {m : Mode} {w : Width} {a : Addr} (h : m.width = a.width) : (Instr.movAlAddr a).wf m w = true := by
  rw [Instr.wf, h, beq_self_eq_true]

/-- Settles O46: the mode's address width, and the load of a byte inside the store and outside it. -/
theorem loadAlFromAddress : Obligations.LoadAlFromAddress := by
  refine ⟨fun a => ⟨?dispatches16, fun s => ?a16⟩,
    fun a => ⟨?dispatches32, fun hin s => loadReg8_inside (a := .a32 a) .al hin,
      fun hout s => loadReg8_outside (a := .a32 a) .al (Nat.lt_succ_of_le hout)⟩⟩
  case dispatches16 => exact dispatches_of_encode rfl rfl fun s hm => wf_movAlAddr (by rw [hm]; rfl)
  case dispatches32 => exact dispatches_of_encode rfl rfl fun s hm => wf_movAlAddr (by rw [hm]; rfl)
  case a16 =>
    have hin := effective_a16_inStore a
    rw [← effective_a16_toNat]
    exact loadReg8_inside .al (by omega)

/-- Settles O47: the operand's width is W, and the load by W inside the store and outside it. -/
theorem loadAccumulatorByWidth : Obligations.LoadAccumulatorByWidth := by
  refine ⟨fun a => ⟨?dispatches16, fun s hw => ?a16⟩,
    fun a => ⟨?dispatches32, fun s hw hin => loadGpr_inside_w32 (a := .a32 a) .eax hw hin,
      fun s hw hout => loadGpr_outside_w32 (a := .a32 a) .eax hw hout⟩⟩
  case dispatches16 => exact dispatches_of_encode rfl rfl fun s hw => by rw [hw]; rfl
  case dispatches32 => exact dispatches_of_encode rfl rfl fun s hw => by rw [hw]; rfl
  case a16 =>
    have hin := effective_a16_inStore a
    rw [← effective_a16_toNat]
    exact loadGpr_inside_w16 .eax hw (by omega)

/-- Settles O49: the immediate's width is W in a dispatch, and its move is one completed write of the register. -/
theorem moveImmediateByWidth : Obligations.MoveImmediateByWidth := by
  intro op c r h
  refine ⟨fun v => ?word, fun v => ?dword⟩
  case word =>
    obtain ⟨hencode, hfetches, hwf, hexec⟩ := movImm_of_mem_movImmRows h (.i16 v)
    exact ⟨dispatches_of_encode hencode hfetches fun s hw => hw ▸ hwf s.mode,
      fun s => ⟨_, hexec s, retiresRegs_epilogue s _, writesWord_of_regs rfl⟩⟩
  case dword =>
    obtain ⟨hencode, hfetches, hwf, hexec⟩ := movImm_of_mem_movImmRows h (.i32 v)
    exact ⟨dispatches_of_encode hencode hfetches fun s hw => hw ▸ hwf s.mode,
      fun s => ⟨_, hexec s, retiresRegs_epilogue s _, writesDword_of_regs rfl⟩⟩

/-! ## The obligations: the override and NOP -/

/-- Settles O50: the override's operation is the epilogue alone. -/
theorem overrideIsOnlyRecorded : Obligations.OverrideIsOnlyRecorded :=
  ⟨dispatches_of_noneTail fun _ _ => rfl, fun s => ⟨_, rfl, retiresRegs_epilogue s s.regs, rfl, fun hcur => hcur⟩⟩

/-- Settles O51: NOP's operation is the epilogue alone. -/
theorem nopOnlyRetires : Obligations.NopOnlyRetires :=
  ⟨dispatches_of_noneTail fun _ _ => rfl, fun s => ⟨_, rfl, retiresRegs_epilogue s s.regs, rfl⟩⟩

end Sys2Proof.Machine
end
